-- ==== Sys2Proof/Word.lean ====
section
/-! DEFINITION. The word types of the uncore PMU (00_scope.md R8, R15): bit 0 is the least significant bit. -/

namespace Sys2Proof

/-- A byte of an operation record. -/
abbrev Byte := BitVec 8

/-- The content of a model-specific register, and any value RDMSR returns or WRMSR carries (R22, R79). -/
abbrev Word64 := BitVec 64

/-- An MSR address, an RDPMC index, or one 32-bit half of a configuration value (R71, R79). -/
abbrev Word32 := BitVec 32

/-- The value of a programmable counter, 44 bits (R40). -/
abbrev Ctr44 := BitVec 44

/-- The value of the fixed counter, 48 bits (R31). -/
abbrev Ctr48 := BitVec 48

end Sys2Proof
end

