-- ==== Sys2Proof/Syntax.lean ====
section
/-! DEFINITION. The syntax: indices, register and event names, the cycle records of the event oracle, the
instructions (one constructor per row of spec/opcode_table.json), the operation records of software and the
steps of the agents. -/

namespace Sys2Proof

/-- The CBo instances a part can have, 0 to 3 (R3, R22). -/
inductive CboIdx where
  | c0 | c1 | c2 | c3
deriving DecidableEq, Repr, Inhabited

/-- The number of a CBo. -/
def CboIdx.toNat : CboIdx → Nat
  | .c0 => 0 | .c1 => 1 | .c2 => 2 | .c3 => 3

/-- The counter index `j` within a unit (R41). -/
inductive CtrIdx where
  | k0 | k1
deriving DecidableEq, Repr, Inhabited

/-- The processor cores that the PMI_SEL_COREn fields number, 0 to 3 (R27, R314). -/
inductive CoreIdx where
  | p0 | p1 | p2 | p3
deriving DecidableEq, Repr, Inhabited

/-- The number of a core. -/
def CoreIdx.toNat : CoreIdx → Nat
  | .p0 => 0 | .p1 => 1 | .p2 => 2 | .p3 => 3

/-- The units that hold a pair of programmable counters (R41): the `u` of `sel(u, j)` and `ctr(u, j)`. -/
inductive UnitId where
  | arb
  | cbo (i : CboIdx)
deriving DecidableEq, Repr, Inhabited

/-- The 25 model-specific registers (R22). -/
inductive Msr where
  | globalCtrl | globalStatus | fixedCtrl | fixedCtr | cboConfig
  | perfCtr (u : UnitId) (j : CtrIdx)
  | perfEvtSel (u : UnitId) (j : CtrIdx)
deriving DecidableEq, Repr, Inhabited

/-- The five free-running counters of the integrated memory controller (R42). -/
inductive ImcCtr where
  | gtRequests | iaRequests | ioRequests | dataReads | dataWrites
deriving DecidableEq, Repr, Inhabited

/-- The counting-mode fields of an event-select register (R34 to R37): threshold, invert, local enable, overflow
enable, edge. -/
structure CountMode where
  /-- THR, bits 28:24 (R35). -/
  thr : BitVec 5
  /-- INV, bit 23 (R35). -/
  inv : Bool
  /-- EN, bit 22: the local enable (R36). -/
  en : Bool
  /-- OVF_EN, bit 20: the overflow indication is transmitted (R36). -/
  ovfEn : Bool
  /-- E, bit 18: count edges, not levels (R37). -/
  edge : Bool
deriving DecidableEq, Repr, Inhabited

/-- The fields of an event-select register (R34). -/
structure EvtSel where
  mode : CountMode
  /-- UMASK, bits 15:8 (R38). -/
  umask : BitVec 8
  /-- EVT_SEL, bits 7:0 (R38). -/
  evt : BitVec 8
deriving DecidableEq, Repr, Inhabited

/-! ### What the event oracle supplies for one cycle (R12) -/

/-- The kind of request that looks the cache up (R210). -/
inductive ReqKind where
  | read | write | other
deriving DecidableEq, Repr, Inhabited

/-- The MESI state in which the line is found (R210). -/
inductive Mesi where
  | m | e | s | i
deriving DecidableEq, Repr, Inhabited

/-- One LLC lookup (R210). -/
structure Lookup where
  req : ReqKind
  state : Mesi
deriving DecidableEq, Repr, Inhabited

/-- What caused a cross-core snoop (R210). -/
inductive SnoopCause where
  | xcore | eviction | other
deriving DecidableEq, Repr, Inhabited

/-- The outcome of a snoop in the snooped cores (R210). -/
inductive SnoopResp where
  | miss | hit | hitm | other
deriving DecidableEq, Repr, Inhabited

/-- One cross-core snoop response (R210). -/
structure Snoop where
  cause : SnoopCause
  resp : SnoopResp
deriving DecidableEq, Repr, Inhabited

/-- `CycleRecord(CBO_i)` (R210). -/
structure CboCycle where
  lookups : List Lookup
  snoops : List Snoop
deriving DecidableEq, Repr, Inhabited

/-- The kind of an entry allocated in the ARB tracker (R240). -/
inductive AllocKind where
  | write | other
deriving DecidableEq, Repr, Inhabited

/-- `CycleRecord(ARB)` (R240). -/
structure ArbCycle where
  trkValid : Nat
  trkAlloc : List AllocKind
  cohTrkAlloc : Nat
deriving DecidableEq, Repr, Inhabited

/-! ### Instructions -/

/-- The instructions: one constructor per row of spec/opcode_table.json, in the table's order (R14, R122).
An access operation's address stands in its constructor; a write carries its value. An event selection is the
content of an event-select register (43_cbo_events.md, opening): its unit, its counter index where more than one is
valid (R113), and the register's mode fields. -/
inductive Instr where
  /-- RDMSR_MSR_UNC_PERF_GLOBAL_CTRL, R130. -/
  | rdmsrGlobalCtrl
  /-- WRMSR_MSR_UNC_PERF_GLOBAL_CTRL, R131. -/
  | wrmsrGlobalCtrl (v : Word64)
  /-- RDMSR_MSR_UNC_PERF_GLOBAL_STATUS, R136. -/
  | rdmsrGlobalStatus
  /-- WRMSR_MSR_UNC_PERF_GLOBAL_STATUS, R137. -/
  | wrmsrGlobalStatus (v : Word64)
  /-- RDMSR_MSR_UNC_PERF_FIXED_CTRL, R150. -/
  | rdmsrFixedCtrl
  /-- WRMSR_MSR_UNC_PERF_FIXED_CTRL, R151. -/
  | wrmsrFixedCtrl (v : Word64)
  /-- RDMSR_MSR_UNC_PERF_FIXED_CTR, R156. -/
  | rdmsrFixedCtr
  /-- WRMSR_MSR_UNC_PERF_FIXED_CTR, R157. -/
  | wrmsrFixedCtr (v : Word64)
  /-- RDMSR_MSR_UNC_CBO_CONFIG, R170. -/
  | rdmsrCboConfig
  /-- WRMSR_MSR_UNC_CBO_CONFIG, R171. -/
  | wrmsrCboConfig (v : Word64)
  /-- RDMSR_MSR_UNC_ARB_PERFCTR0, R182. -/
  | rdmsrArbPerfCtr0
  /-- WRMSR_MSR_UNC_ARB_PERFCTR0, R183. -/
  | wrmsrArbPerfCtr0 (v : Word64)
  /-- RDMSR_MSR_UNC_ARB_PERFCTR1, R182. -/
  | rdmsrArbPerfCtr1
  /-- WRMSR_MSR_UNC_ARB_PERFCTR1, R183. -/
  | wrmsrArbPerfCtr1 (v : Word64)
  /-- RDMSR_MSR_UNC_ARB_PERFEVTSEL0, R176. -/
  | rdmsrArbPerfEvtSel0
  /-- WRMSR_MSR_UNC_ARB_PERFEVTSEL0, R177. -/
  | wrmsrArbPerfEvtSel0 (v : Word64)
  /-- RDMSR_MSR_UNC_ARB_PERFEVTSEL1, R176. -/
  | rdmsrArbPerfEvtSel1
  /-- WRMSR_MSR_UNC_ARB_PERFEVTSEL1, R177. -/
  | wrmsrArbPerfEvtSel1 (v : Word64)
  /-- RDMSR_MSR_UNC_CBO_0_PERFEVTSEL0, R174. -/
  | rdmsrCbo0PerfEvtSel0
  /-- WRMSR_MSR_UNC_CBO_0_PERFEVTSEL0, R175. -/
  | wrmsrCbo0PerfEvtSel0 (v : Word64)
  /-- RDMSR_MSR_UNC_CBO_0_PERFEVTSEL1, R174. -/
  | rdmsrCbo0PerfEvtSel1
  /-- WRMSR_MSR_UNC_CBO_0_PERFEVTSEL1, R175. -/
  | wrmsrCbo0PerfEvtSel1 (v : Word64)
  /-- RDMSR_MSR_UNC_CBO_0_PERFCTR0, R180. -/
  | rdmsrCbo0PerfCtr0
  /-- WRMSR_MSR_UNC_CBO_0_PERFCTR0, R181. -/
  | wrmsrCbo0PerfCtr0 (v : Word64)
  /-- RDMSR_MSR_UNC_CBO_0_PERFCTR1, R180. -/
  | rdmsrCbo0PerfCtr1
  /-- WRMSR_MSR_UNC_CBO_0_PERFCTR1, R181. -/
  | wrmsrCbo0PerfCtr1 (v : Word64)
  /-- RDMSR_MSR_UNC_CBO_1_PERFEVTSEL0, R174. -/
  | rdmsrCbo1PerfEvtSel0
  /-- WRMSR_MSR_UNC_CBO_1_PERFEVTSEL0, R175. -/
  | wrmsrCbo1PerfEvtSel0 (v : Word64)
  /-- RDMSR_MSR_UNC_CBO_1_PERFEVTSEL1, R174. -/
  | rdmsrCbo1PerfEvtSel1
  /-- WRMSR_MSR_UNC_CBO_1_PERFEVTSEL1, R175. -/
  | wrmsrCbo1PerfEvtSel1 (v : Word64)
  /-- RDMSR_MSR_UNC_CBO_1_PERFCTR0, R180. -/
  | rdmsrCbo1PerfCtr0
  /-- WRMSR_MSR_UNC_CBO_1_PERFCTR0, R181. -/
  | wrmsrCbo1PerfCtr0 (v : Word64)
  /-- RDMSR_MSR_UNC_CBO_1_PERFCTR1, R180. -/
  | rdmsrCbo1PerfCtr1
  /-- WRMSR_MSR_UNC_CBO_1_PERFCTR1, R181. -/
  | wrmsrCbo1PerfCtr1 (v : Word64)
  /-- RDMSR_MSR_UNC_CBO_2_PERFEVTSEL0, R174. -/
  | rdmsrCbo2PerfEvtSel0
  /-- WRMSR_MSR_UNC_CBO_2_PERFEVTSEL0, R175. -/
  | wrmsrCbo2PerfEvtSel0 (v : Word64)
  /-- RDMSR_MSR_UNC_CBO_2_PERFEVTSEL1, R174. -/
  | rdmsrCbo2PerfEvtSel1
  /-- WRMSR_MSR_UNC_CBO_2_PERFEVTSEL1, R175. -/
  | wrmsrCbo2PerfEvtSel1 (v : Word64)
  /-- RDMSR_MSR_UNC_CBO_2_PERFCTR0, R180. -/
  | rdmsrCbo2PerfCtr0
  /-- WRMSR_MSR_UNC_CBO_2_PERFCTR0, R181. -/
  | wrmsrCbo2PerfCtr0 (v : Word64)
  /-- RDMSR_MSR_UNC_CBO_2_PERFCTR1, R180. -/
  | rdmsrCbo2PerfCtr1
  /-- WRMSR_MSR_UNC_CBO_2_PERFCTR1, R181. -/
  | wrmsrCbo2PerfCtr1 (v : Word64)
  /-- RDMSR_MSR_UNC_CBO_3_PERFEVTSEL0, R174. -/
  | rdmsrCbo3PerfEvtSel0
  /-- WRMSR_MSR_UNC_CBO_3_PERFEVTSEL0, R175. -/
  | wrmsrCbo3PerfEvtSel0 (v : Word64)
  /-- RDMSR_MSR_UNC_CBO_3_PERFEVTSEL1, R174. -/
  | rdmsrCbo3PerfEvtSel1
  /-- WRMSR_MSR_UNC_CBO_3_PERFEVTSEL1, R175. -/
  | wrmsrCbo3PerfEvtSel1 (v : Word64)
  /-- RDMSR_MSR_UNC_CBO_3_PERFCTR0, R180. -/
  | rdmsrCbo3PerfCtr0
  /-- WRMSR_MSR_UNC_CBO_3_PERFCTR0, R181. -/
  | wrmsrCbo3PerfCtr0 (v : Word64)
  /-- RDMSR_MSR_UNC_CBO_3_PERFCTR1, R180. -/
  | rdmsrCbo3PerfCtr1
  /-- WRMSR_MSR_UNC_CBO_3_PERFCTR1, R181. -/
  | wrmsrCbo3PerfCtr1 (v : Word64)
  /-- RDPMC, R103. -/
  | rdpmc (index : Word32)
  /-- MMIO_RD32_DRAM_GT_REQUESTS, R266. -/
  | mmioRd32DramGtRequests
  /-- MMIO_RD32_DRAM_IA_REQUESTS, R266. -/
  | mmioRd32DramIaRequests
  /-- MMIO_RD32_DRAM_IO_REQUESTS, R266. -/
  | mmioRd32DramIoRequests
  /-- MMIO_RD32_DRAM_DATA_READS, R266. -/
  | mmioRd32DramDataReads
  /-- MMIO_RD32_DRAM_DATA_WRITES, R266. -/
  | mmioRd32DramDataWrites
  /-- CFG_RD32_0_0.0_0x48, R268. -/
  | cfgRd32Lo
  /-- CFG_RD32_0_0.0_0x4C, R268. -/
  | cfgRd32Hi
  /-- UNC_CBO_XSNP_RESPONSE.MISS_XCORE, R213. -/
  | xsnpResponseMissXcore (i : CboIdx) (j : CtrIdx) (mode : CountMode)
  /-- UNC_CBO_XSNP_RESPONSE.MISS_EVICTION, R214. -/
  | xsnpResponseMissEviction (i : CboIdx) (j : CtrIdx) (mode : CountMode)
  /-- UNC_CBO_XSNP_RESPONSE.HIT_XCORE, R215. -/
  | xsnpResponseHitXcore (i : CboIdx) (j : CtrIdx) (mode : CountMode)
  /-- UNC_CBO_XSNP_RESPONSE.HITM_XCORE, R216. -/
  | xsnpResponseHitmXcore (i : CboIdx) (j : CtrIdx) (mode : CountMode)
  /-- UNC_CBO_CACHE_LOOKUP.WRITE_M, R218. -/
  | cacheLookupWriteM (i : CboIdx) (j : CtrIdx) (mode : CountMode)
  /-- UNC_CBO_CACHE_LOOKUP.ANY_M, R219. -/
  | cacheLookupAnyM (i : CboIdx) (j : CtrIdx) (mode : CountMode)
  /-- UNC_CBO_CACHE_LOOKUP.READ_I, R220. -/
  | cacheLookupReadI (i : CboIdx) (j : CtrIdx) (mode : CountMode)
  /-- UNC_CBO_CACHE_LOOKUP.ANY_I, R221. -/
  | cacheLookupAnyI (i : CboIdx) (j : CtrIdx) (mode : CountMode)
  /-- UNC_CBO_CACHE_LOOKUP.READ_MESI, R222. -/
  | cacheLookupReadMesi (i : CboIdx) (j : CtrIdx) (mode : CountMode)
  /-- UNC_CBO_CACHE_LOOKUP.WRITE_MESI, R223. -/
  | cacheLookupWriteMesi (i : CboIdx) (j : CtrIdx) (mode : CountMode)
  /-- UNC_CBO_CACHE_LOOKUP.ANY_MESI, R224. -/
  | cacheLookupAnyMesi (i : CboIdx) (j : CtrIdx) (mode : CountMode)
  /-- UNC_CBO_CACHE_LOOKUP.ANY_ES, R225. -/
  | cacheLookupAnyEs (i : CboIdx) (j : CtrIdx) (mode : CountMode)
  /-- UNC_CBO_CACHE_LOOKUP.READ_ES, R226. -/
  | cacheLookupReadEs (i : CboIdx) (j : CtrIdx) (mode : CountMode)
  /-- UNC_CBO_CACHE_LOOKUP.WRITE_ES, R227. -/
  | cacheLookupWriteEs (i : CboIdx) (j : CtrIdx) (mode : CountMode)
  /-- UNC_ARB_TRK_OCCUPANCY.ALL, R241. -/
  | arbTrkOccupancyAll (mode : CountMode)
  /-- UNC_ARB_TRK_REQUESTS.ALL, R242. -/
  | arbTrkRequestsAll (j : CtrIdx) (mode : CountMode)
  /-- UNC_ARB_TRK_REQUESTS.WRITES, R243. -/
  | arbTrkRequestsWrites (j : CtrIdx) (mode : CountMode)
  /-- UNC_ARB_COH_TRK_REQUESTS.ALL, R244. -/
  | arbCohTrkRequestsAll (j : CtrIdx) (mode : CountMode)
  /-- UNC_ARB_TRK_OCCUPANCY.CYCLES_WITH_ANY_REQUEST, R245. -/
  | arbTrkOccupancyCyclesWithAnyRequest (mode : CountMode)
  /-- UNC_CLOCK.SOCKET, R246. -/
  | clockSocket
deriving DecidableEq, Repr, Inhabited

/-! ### Operations, places and steps -/

/-- Why the decoder gives no instruction, one name for each reason. -/
inductive Reject where
  /-- Raised by `decodeRecord`: the bytes are no operation record of the model's layout. Safe: it stands for no
  operation of the spec. -/
  | malformedRecord
  /-- Raised for RDMSR and WRMSR of an address that is none of the 25 (R73, R74). Safe. -/
  | notAPmuMsr
  /-- Raised for a MemRead or MemWrite that overlaps no IMC counter (R77, R80). Safe. -/
  | notAPmuAddress
  /-- Raised for a MemRead that overlaps an IMC counter and is not exactly one of the five words (R80). Safe. -/
  | unsupportedMmioAccess
  /-- Raised for a MemWrite that overlaps an IMC counter (R80, R267). Safe. -/
  | imcWrite
  /-- Raised for a CFG_RD32 of another location than 0:0.0 offset 0x48 or 0x4C (R105). Safe. -/
  | notAPmuConfigRegister
  /-- Raised where the content of an event-select register selects no listed event (R114), or the label of the
  fixed counter is another than 0x0100 (R110): no instruction is there. Safe. -/
  | unlistedEvent
  /-- Raised where a word offered as event-select content has a reserved bit set (R34). Safe. -/
  | reservedBitInWord
deriving DecidableEq, Repr, Inhabited

/-- An access operation as the PMU sees it: a kind and its operands (R100). `MMIO_RD32 p` is `memRead p 4` (R104).
A write to physical memory carries no value, since every one is refused whatever its value (R80). -/
inductive Access where
  | rdmsr (a : Word32)
  | wrmsr (a : Word32) (v : Word64)
  | rdpmc (index : Word32)
  | memRead (p n : Nat)
  | memWrite (p n : Nat)
  | cfgRd32 (bus dev fn : Byte) (off : Word32)
deriving DecidableEq, Repr, Inhabited

/-- Where an instruction stands: in an operation record issued by a core, in the event-select register `sel(u, j)`,
or in the fixed counter's label (R110, R246). -/
inductive Place where
  | record
  | slot (u : UnitId) (j : CtrIdx)
  | fixed
deriving DecidableEq, Repr, Inhabited

/-- One step of one agent (R10, R116). -/
inductive Action where
  /-- Software on a core issues the access operation whose record is `bytes` (R100). -/
  | access (core : CoreIdx) (bytes : List Byte)
  /-- `tick FIXED` (R158). -/
  | tickFixed
  /-- `tick ARB`, with what happened in the cycle (R190, R240). -/
  | tickArb (cycle : ArbCycle)
  /-- `tick CBO_i`, with what happened in the cycle (R190, R210). -/
  | tickCbo (i : CboIdx) (cycle : CboCycle)
  /-- `imc c`: one counted event of an IMC counter (R270). -/
  | imc (c : ImcCtr)
  /-- `pmi`: one step of the PMI delivery agent (R300). -/
  | pmi
  /-- `sleep n` (R312). -/
  | sleep (n : CoreIdx)
  /-- `wake n` (R312). -/
  | wake (n : CoreIdx)
deriving DecidableEq, Repr, Inhabited

end Sys2Proof
end

