-- ==== Sys2Proof/Config.lean ====
section
/-! DEFINITION. The free values and the constant of the spec. A free value is an opaque function without a body,
applied to the counter `State.draws`: no proof can know any of its values, so a claim holds for every draw
(00_scope.md R16, `draw(T)`). The parameters of R9 that differ from part to part stand in `Machine.Part`. -/

namespace Sys2Proof

/-- The reserved bits that the n-th draw returns on an RDMSR (R119, U2). Free value, log 10. -/
opaque Config.freeBits : Nat → Word64

/-- The event increment that the n-th draw gives a counter programmed with an unlisted or misplaced event
(R114, R191, U7, U8). Free value, log 13. -/
opaque Config.freeIncrement : Nat → Nat

/-- The edge history that the n-th draw leaves in a counter that does not count (R190, D9, U14). Free value,
log 12. -/
opaque Config.freeEdge : Nat → Bool

/-- The agent step that comes next where the schedule says nothing (R10, R87, U16). Free value, log 2. -/
opaque Config.freeAction : Nat → Action

/-- The IMC_BAR_MASK that the source prints: it keeps bits 42:15 (R9, R262). Whether a part has it is open (N14, D29),
so it is only the value of `Part.imcBarMask` at reset (log 3). -/
def Config.imcBarMask : Word64 := 0x0007FFFFFF8000#64

end Sys2Proof
end

