-- ==== Sys2Proof/WellFormed.lean ====
section
/-! DEFINITION. Which instructions are well formed: those that some word of the table stands for. Only the two rows
that share an event code need a check: a word whose THR is 1 is the row CYCLES_WITH_ANY_REQUEST (mask 0x1F00FFFF,
R122, R245), any other the row TRK_OCCUPANCY.ALL (log 14). Every value of every other operand is admitted. -/

namespace Sys2Proof

/-- The instruction is the one that its own word stands for. -/
def Instr.wellFormed : Instr → Bool
  | .arbTrkOccupancyAll mode => mode.thr != 1#5
  | .arbTrkOccupancyCyclesWithAnyRequest mode => mode.thr == 1#5
  | _ => true

end Sys2Proof
end

