-- ==== Sys2Proof/Decode.lean ====
section
/-! DEFINITION. The decoder, total on any bytes, and after it the encoder (30_encoding.md).
An instruction stands in one of three places (`Place`): an operation record issued by a core, an event-select
register, or the fixed counter's label. The layout of an operation record is the model's own (R100 gives a kind and
operands and no bits for the kind; log 8): 16 bytes, the 32-bit operand `A` in bytes 0 to 3, the kind in byte 4,
bus, device and function in bytes 5 to 7, the 64-bit operand `V` in bytes 8 to 15, all little-endian. -/

namespace Sys2Proof

/-! ### Byte order (R82: little-endian) -/

/-- The 32-bit number whose least significant byte is `a0`. -/
def le32 (a0 a1 a2 a3 : Byte) : Word32 := a3 ++ a2 ++ a1 ++ a0

/-- The 64-bit number whose least significant byte is `a0`. -/
def le64 (a0 a1 a2 a3 a4 a5 a6 a7 : Byte) : Word64 := le32 a4 a5 a6 a7 ++ le32 a0 a1 a2 a3

/-- Byte `k` of a value, counted from the least significant. -/
def byteOf {w : Nat} (k : Nat) (x : BitVec w) : Byte := x.extractLsb' (8 * k) 8

/-- The four bytes of a 32-bit number, least significant first. -/
def bytes32 (x : Word32) : List Byte := [byteOf 0 x, byteOf 1 x, byteOf 2 x, byteOf 3 x]

/-- The eight bytes of a 64-bit number, least significant first. -/
def bytes64 (x : Word64) : List Byte :=
  [byteOf 0 x, byteOf 1 x, byteOf 2 x, byteOf 3 x, byteOf 4 x, byteOf 5 x, byteOf 6 x, byteOf 7 x]

/-! ### The EVTSEL format, which is the format of an event selection (R34, R107, R108, R109) -/

/-- A one-bit field placed at bit `n` (R108). -/
def bitAt (b : Bool) (n : Nat) : Word64 := (BitVec.ofBool b).setWidth 64 <<< n

/-- The mask of defined bits of an event-select register (R107). -/
def evtSelMask : Word64 := 0x000000001FD4FFFF#64

/-- The value of an event-select register from its fields, `EVTSEL(..)` of R108. -/
def EvtSel.pack (x : EvtSel) : Word64 :=
  x.mode.thr.setWidth 64 <<< 24 ||| bitAt x.mode.inv 23 ||| bitAt x.mode.en 22 ||| bitAt x.mode.ovfEn 20
    ||| bitAt x.mode.edge 18 ||| x.umask.setWidth 64 <<< 8 ||| x.evt.setWidth 64

/-- The fields of an event-select register from a value, whose reserved bits are dropped (R109). -/
def EvtSel.unpack (v : Word64) : EvtSel where
  mode :=
    { thr := v.extractLsb' 24 5, inv := v.getLsbD 23, en := v.getLsbD 22, ovfEn := v.getLsbD 20,
      edge := v.getLsbD 18 }
  umask := v.extractLsb' 8 8
  evt := v.extractLsb' 0 8

/-! ### The MSR address map (R72, R106) -/

/-- The address of a register (R22, R72). -/
def Msr.addr : Msr → Word32
  | .globalCtrl => 0xE01#32
  | .globalStatus => 0xE02#32
  | .fixedCtrl => 0x394#32
  | .fixedCtr => 0x395#32
  | .cboConfig => 0x396#32
  | .perfCtr .arb .k0 => 0x3B0#32
  | .perfCtr .arb .k1 => 0x3B1#32
  | .perfEvtSel .arb .k0 => 0x3B2#32
  | .perfEvtSel .arb .k1 => 0x3B3#32
  | .perfEvtSel (.cbo .c0) .k0 => 0x700#32
  | .perfEvtSel (.cbo .c0) .k1 => 0x701#32
  | .perfCtr (.cbo .c0) .k0 => 0x706#32
  | .perfCtr (.cbo .c0) .k1 => 0x707#32
  | .perfEvtSel (.cbo .c1) .k0 => 0x710#32
  | .perfEvtSel (.cbo .c1) .k1 => 0x711#32
  | .perfCtr (.cbo .c1) .k0 => 0x716#32
  | .perfCtr (.cbo .c1) .k1 => 0x717#32
  | .perfEvtSel (.cbo .c2) .k0 => 0x720#32
  | .perfEvtSel (.cbo .c2) .k1 => 0x721#32
  | .perfCtr (.cbo .c2) .k0 => 0x726#32
  | .perfCtr (.cbo .c2) .k1 => 0x727#32
  | .perfEvtSel (.cbo .c3) .k0 => 0x730#32
  | .perfEvtSel (.cbo .c3) .k1 => 0x731#32
  | .perfCtr (.cbo .c3) .k0 => 0x736#32
  | .perfCtr (.cbo .c3) .k1 => 0x737#32

/-- The four registers of a CBo, in the order of R22. -/
def Msr.ofCbo (i : CboIdx) : List Msr :=
  [.perfEvtSel (.cbo i) .k0, .perfEvtSel (.cbo i) .k1, .perfCtr (.cbo i) .k0, .perfCtr (.cbo i) .k1]

/-- The nine registers outside the CBos, in the order of R22. -/
def Msr.common : List Msr :=
  [.globalCtrl, .globalStatus, .fixedCtrl, .fixedCtr, .cboConfig, .perfCtr .arb .k0, .perfCtr .arb .k1,
    .perfEvtSel .arb .k0, .perfEvtSel .arb .k1]

/-- The 25 registers, in the order of R22. -/
def Msr.all : List Msr :=
  Msr.common ++ Msr.ofCbo .c0 ++ Msr.ofCbo .c1 ++ Msr.ofCbo .c2 ++ Msr.ofCbo .c3

/-- The register at an address: the whole address is compared (R106); the holes hold no register (R73). -/
def Msr.ofAddr (a : Word32) : Option Msr := Msr.all.find? fun m => m.addr == a

/-- The instruction that reads a register. -/
def Msr.rdInstr : Msr → Instr
  | .globalCtrl => .rdmsrGlobalCtrl
  | .globalStatus => .rdmsrGlobalStatus
  | .fixedCtrl => .rdmsrFixedCtrl
  | .fixedCtr => .rdmsrFixedCtr
  | .cboConfig => .rdmsrCboConfig
  | .perfCtr .arb .k0 => .rdmsrArbPerfCtr0
  | .perfCtr .arb .k1 => .rdmsrArbPerfCtr1
  | .perfEvtSel .arb .k0 => .rdmsrArbPerfEvtSel0
  | .perfEvtSel .arb .k1 => .rdmsrArbPerfEvtSel1
  | .perfEvtSel (.cbo .c0) .k0 => .rdmsrCbo0PerfEvtSel0
  | .perfEvtSel (.cbo .c0) .k1 => .rdmsrCbo0PerfEvtSel1
  | .perfCtr (.cbo .c0) .k0 => .rdmsrCbo0PerfCtr0
  | .perfCtr (.cbo .c0) .k1 => .rdmsrCbo0PerfCtr1
  | .perfEvtSel (.cbo .c1) .k0 => .rdmsrCbo1PerfEvtSel0
  | .perfEvtSel (.cbo .c1) .k1 => .rdmsrCbo1PerfEvtSel1
  | .perfCtr (.cbo .c1) .k0 => .rdmsrCbo1PerfCtr0
  | .perfCtr (.cbo .c1) .k1 => .rdmsrCbo1PerfCtr1
  | .perfEvtSel (.cbo .c2) .k0 => .rdmsrCbo2PerfEvtSel0
  | .perfEvtSel (.cbo .c2) .k1 => .rdmsrCbo2PerfEvtSel1
  | .perfCtr (.cbo .c2) .k0 => .rdmsrCbo2PerfCtr0
  | .perfCtr (.cbo .c2) .k1 => .rdmsrCbo2PerfCtr1
  | .perfEvtSel (.cbo .c3) .k0 => .rdmsrCbo3PerfEvtSel0
  | .perfEvtSel (.cbo .c3) .k1 => .rdmsrCbo3PerfEvtSel1
  | .perfCtr (.cbo .c3) .k0 => .rdmsrCbo3PerfCtr0
  | .perfCtr (.cbo .c3) .k1 => .rdmsrCbo3PerfCtr1

/-- The instruction that writes a value to a register. -/
def Msr.wrInstr (v : Word64) : Msr → Instr
  | .globalCtrl => .wrmsrGlobalCtrl v
  | .globalStatus => .wrmsrGlobalStatus v
  | .fixedCtrl => .wrmsrFixedCtrl v
  | .fixedCtr => .wrmsrFixedCtr v
  | .cboConfig => .wrmsrCboConfig v
  | .perfCtr .arb .k0 => .wrmsrArbPerfCtr0 v
  | .perfCtr .arb .k1 => .wrmsrArbPerfCtr1 v
  | .perfEvtSel .arb .k0 => .wrmsrArbPerfEvtSel0 v
  | .perfEvtSel .arb .k1 => .wrmsrArbPerfEvtSel1 v
  | .perfEvtSel (.cbo .c0) .k0 => .wrmsrCbo0PerfEvtSel0 v
  | .perfEvtSel (.cbo .c0) .k1 => .wrmsrCbo0PerfEvtSel1 v
  | .perfCtr (.cbo .c0) .k0 => .wrmsrCbo0PerfCtr0 v
  | .perfCtr (.cbo .c0) .k1 => .wrmsrCbo0PerfCtr1 v
  | .perfEvtSel (.cbo .c1) .k0 => .wrmsrCbo1PerfEvtSel0 v
  | .perfEvtSel (.cbo .c1) .k1 => .wrmsrCbo1PerfEvtSel1 v
  | .perfCtr (.cbo .c1) .k0 => .wrmsrCbo1PerfCtr0 v
  | .perfCtr (.cbo .c1) .k1 => .wrmsrCbo1PerfCtr1 v
  | .perfEvtSel (.cbo .c2) .k0 => .wrmsrCbo2PerfEvtSel0 v
  | .perfEvtSel (.cbo .c2) .k1 => .wrmsrCbo2PerfEvtSel1 v
  | .perfCtr (.cbo .c2) .k0 => .wrmsrCbo2PerfCtr0 v
  | .perfCtr (.cbo .c2) .k1 => .wrmsrCbo2PerfCtr1 v
  | .perfEvtSel (.cbo .c3) .k0 => .wrmsrCbo3PerfEvtSel0 v
  | .perfEvtSel (.cbo .c3) .k1 => .wrmsrCbo3PerfEvtSel1 v
  | .perfCtr (.cbo .c3) .k0 => .wrmsrCbo3PerfCtr0 v
  | .perfCtr (.cbo .c3) .k1 => .wrmsrCbo3PerfCtr1 v

/-! ### The IMC window and the configuration location (R77, R78, R262, R263) -/

/-- `IMC_BAR`: the value at 0:0.0 offset 0x48, masked with the part's `IMC_BAR_MASK` (R9, R262). -/
def imcBar (mask cfg48 : Word64) : Nat := (cfg48 &&& mask).toNat

/-- The offset of an IMC counter from `IMC_BAR` (R263). -/
def ImcCtr.offset : ImcCtr → Nat
  | .gtRequests => 0x5040
  | .iaRequests => 0x5044
  | .ioRequests => 0x5048
  | .dataReads => 0x5050
  | .dataWrites => 0x5054

/-- The five IMC counters, in the order of R42. -/
def ImcCtr.all : List ImcCtr := [.gtRequests, .iaRequests, .ioRequests, .dataReads, .dataWrites]

/-- The instruction that reads an IMC counter. -/
def ImcCtr.rdInstr : ImcCtr → Instr
  | .gtRequests => .mmioRd32DramGtRequests
  | .iaRequests => .mmioRd32DramIaRequests
  | .ioRequests => .mmioRd32DramIoRequests
  | .dataReads => .mmioRd32DramDataReads
  | .dataWrites => .mmioRd32DramDataWrites

/-- The IMC counter whose 4-byte word is at a physical address (R77). -/
def ImcCtr.atAddr (bar p : Nat) : Option ImcCtr := ImcCtr.all.find? fun c => bar + c.offset == p

/-- The byte range `[p, p + n)` overlaps at least one byte of one of the five words (R80). -/
def imcOverlaps (bar p n : Nat) : Bool :=
  ImcCtr.all.any fun c => max p (bar + c.offset) < min (p + n) (bar + c.offset + 4)

/-! ### The event-code map (R110, R112, R113, R114) -/

/-- The CBo rows: `UMASK<<8 | EVT_SEL` and the instruction (R110). Every one may use counter 0 or 1. -/
def cboEvents : List (BitVec 16 × (CboIdx → CtrIdx → CountMode → Instr)) :=
  [(0x4122#16, .xsnpResponseMissXcore),
    (0x8122#16, .xsnpResponseMissEviction),
    (0x4422#16, .xsnpResponseHitXcore),
    (0x4822#16, .xsnpResponseHitmXcore),
    (0x2134#16, .cacheLookupWriteM),
    (0x8134#16, .cacheLookupAnyM),
    (0x1834#16, .cacheLookupReadI),
    (0x8834#16, .cacheLookupAnyI),
    (0x1F34#16, .cacheLookupReadMesi),
    (0x2F34#16, .cacheLookupWriteMesi),
    (0x8F34#16, .cacheLookupAnyMesi),
    (0x8634#16, .cacheLookupAnyEs),
    (0x1634#16, .cacheLookupReadEs),
    (0x2634#16, .cacheLookupWriteEs)]

/-- The ARB rows that may use counter 0 or 1 (R110). Code 0x0180 is in `decodeArbEvent`. -/
def arbEvents : List (BitVec 16 × (CtrIdx → CountMode → Instr)) :=
  [(0x0181#16, .arbTrkRequestsAll),
    (0x2081#16, .arbTrkRequestsWrites),
    (0x0184#16, .arbCohTrkRequestsAll)]

/-- The ARB event that a code selects on counter `j`. Code 0x0180 is valid on counter 0 only (R113); its two rows
differ in THR (R122, R245, log 14). -/
def decodeArbEvent (code : BitVec 16) (j : CtrIdx) (mode : CountMode) : Option Instr :=
  if code = 0x0180#16 then
    match j with
    | .k0 => some (if mode.thr = 1#5 then .arbTrkOccupancyCyclesWithAnyRequest mode else .arbTrkOccupancyAll mode)
    | .k1 => none
  else (arbEvents.lookup code).map fun mk => mk j mode

/-- The event that the content of `sel(u, j)` selects; none for an unlisted or misplaced code (R112, R114). -/
def decodeEvent (u : UnitId) (j : CtrIdx) (x : EvtSel) : Option Instr :=
  match u with
  | .arb => decodeArbEvent (x.umask ++ x.evt) j x.mode
  | .cbo i => (cboEvents.lookup (x.umask ++ x.evt)).map fun mk => mk i j x.mode

/-! ### Operation records (R100 to R105) -/

/-- The kind byte of RDMSR, the second byte of its x86 code `0F 32` (R101; log 8). -/
def kindRdmsr : Byte := 0x32#8
/-- The kind byte of WRMSR, the second byte of its x86 code `0F 30` (R102; log 8). -/
def kindWrmsr : Byte := 0x30#8
/-- The kind byte of RDPMC, the second byte of its x86 code `0F 33` (R103; log 8). -/
def kindRdpmc : Byte := 0x33#8
/-- The kind byte of a MemRead; the model's own (log 8). -/
def kindMemRead : Byte := 0x01#8
/-- The kind byte of a MemWrite; the model's own (log 8). -/
def kindMemWrite : Byte := 0x02#8
/-- The kind byte of CFG_RD32; the model's own (log 8). -/
def kindCfgRd32 : Byte := 0x03#8

/-- The access operation with kind `k`, operands `A` and `V` and the three location bytes. A byte that the kind
does not use must be 0, so that each operation has one record. -/
def accessOf (k : Byte) (a : Word32) (b d f : Byte) (v : Word64) : Except Reject Access :=
  if k = kindCfgRd32 then (if v = 0#64 then .ok (.cfgRd32 b d f a) else .error .malformedRecord)
  else if b = 0#8 ∧ d = 0#8 ∧ f = 0#8 then
    if k = kindWrmsr then .ok (.wrmsr a v)
    else if k = kindMemRead then .ok (.memRead v.toNat a.toNat)
    else if k = kindMemWrite then .ok (.memWrite v.toNat a.toNat)
    else if v = 0#64 then
      if k = kindRdmsr then .ok (.rdmsr a)
      else if k = kindRdpmc then .ok (.rdpmc a)
      else .error .malformedRecord
    else .error .malformedRecord
  else .error .malformedRecord

/-- The access operation that an operation record stands for. -/
def decodeRecord : List Byte → Except Reject Access
  | [a0, a1, a2, a3, k, b, d, f, v0, v1, v2, v3, v4, v5, v6, v7] =>
    accessOf k (le32 a0 a1 a2 a3) b d f (le64 v0 v1 v2 v3 v4 v5 v6 v7)
  | _ => .error .malformedRecord

/-- The instruction of an access operation, or the reason why the spec gives it none (R73, R77, R80, R105). -/
def Access.toInstr (bar : Nat) : Access → Except Reject Instr
  | .rdmsr a =>
    match Msr.ofAddr a with
    | some m => .ok m.rdInstr
    | none => .error .notAPmuMsr
  | .wrmsr a v =>
    match Msr.ofAddr a with
    | some m => .ok (m.wrInstr v)
    | none => .error .notAPmuMsr
  | .rdpmc index => .ok (.rdpmc index)
  | .memRead p n =>
    match if n = 4 then ImcCtr.atAddr bar p else none with
    | some c => .ok c.rdInstr
    | none => .error (if imcOverlaps bar p n then .unsupportedMmioAccess else .notAPmuAddress)
  | .memWrite p n => .error (if imcOverlaps bar p n then .imcWrite else .notAPmuAddress)
  | .cfgRd32 b d f o =>
    if b = 0#8 ∧ d = 0#8 ∧ f = 0#8 ∧ o = 0x48#32 then .ok .cfgRd32Lo
    else if b = 0#8 ∧ d = 0#8 ∧ f = 0#8 ∧ o = 0x4C#32 then .ok .cfgRd32Hi
    else .error .notAPmuConfigRegister

/-! ### The decoder -/

/-- The event selection that a 64-bit word stands for as the content of `sel(u, j)`. -/
def decodeEventWord (u : UnitId) (j : CtrIdx) (v : Word64) : Except Reject Instr :=
  if v &&& ~~~evtSelMask = 0#64 then
    match decodeEvent u j (EvtSel.unpack v) with
    | some i => .ok i
    | none => .error .unlistedEvent
  else .error .reservedBitInWord

/-- The instruction that stands in a place, or the reason why there is none. `bar` is `IMC_BAR`. -/
def decode (bar : Nat) (pl : Place) (bs : List Byte) : Except Reject Instr :=
  match pl with
  | .record =>
    match decodeRecord bs with
    | .ok a => a.toInstr bar
    | .error r => .error r
  | .slot u j =>
    match bs with
    | [v0, v1, v2, v3, v4, v5, v6, v7] => decodeEventWord u j (le64 v0 v1 v2 v3 v4 v5 v6 v7)
    | _ => .error .malformedRecord
  | .fixed =>
    match bs with
    | [lo, hi] => if hi ++ lo = 0x0100#16 then .ok .clockSocket else .error .unlistedEvent
    | _ => .error .malformedRecord

/-! ### The encoder -/

/-- The operation record of an access operation (log 8). -/
def Access.encode : Access → List Byte
  | .rdmsr a => bytes32 a ++ [kindRdmsr, 0#8, 0#8, 0#8] ++ bytes64 0#64
  | .wrmsr a v => bytes32 a ++ [kindWrmsr, 0#8, 0#8, 0#8] ++ bytes64 v
  | .rdpmc i => bytes32 i ++ [kindRdpmc, 0#8, 0#8, 0#8] ++ bytes64 0#64
  | .memRead p n => bytes32 (BitVec.ofNat 32 n) ++ [kindMemRead, 0#8, 0#8, 0#8] ++ bytes64 (BitVec.ofNat 64 p)
  | .memWrite p n => bytes32 (BitVec.ofNat 32 n) ++ [kindMemWrite, 0#8, 0#8, 0#8] ++ bytes64 (BitVec.ofNat 64 p)
  | .cfgRd32 b d f o => bytes32 o ++ [kindCfgRd32, b, d, f] ++ bytes64 0#64

/-- What kind of table row an instruction is, with what its encoding needs. -/
inductive Form where
  | access (a : Access)
  | mmio (c : ImcCtr)
  | event (u : UnitId) (j : CtrIdx) (code : BitVec 16) (mode : CountMode)
  | label
deriving DecidableEq, Repr

/-- The row of an instruction (R22, R110, R122, R263). -/
def Instr.form : Instr → Form
  | .rdmsrGlobalCtrl => .access (.rdmsr (Msr.addr (.globalCtrl)))
  | .wrmsrGlobalCtrl v => .access (.wrmsr (Msr.addr (.globalCtrl)) v)
  | .rdmsrGlobalStatus => .access (.rdmsr (Msr.addr (.globalStatus)))
  | .wrmsrGlobalStatus v => .access (.wrmsr (Msr.addr (.globalStatus)) v)
  | .rdmsrFixedCtrl => .access (.rdmsr (Msr.addr (.fixedCtrl)))
  | .wrmsrFixedCtrl v => .access (.wrmsr (Msr.addr (.fixedCtrl)) v)
  | .rdmsrFixedCtr => .access (.rdmsr (Msr.addr (.fixedCtr)))
  | .wrmsrFixedCtr v => .access (.wrmsr (Msr.addr (.fixedCtr)) v)
  | .rdmsrCboConfig => .access (.rdmsr (Msr.addr (.cboConfig)))
  | .wrmsrCboConfig v => .access (.wrmsr (Msr.addr (.cboConfig)) v)
  | .rdmsrArbPerfCtr0 => .access (.rdmsr (Msr.addr (.perfCtr .arb .k0)))
  | .wrmsrArbPerfCtr0 v => .access (.wrmsr (Msr.addr (.perfCtr .arb .k0)) v)
  | .rdmsrArbPerfCtr1 => .access (.rdmsr (Msr.addr (.perfCtr .arb .k1)))
  | .wrmsrArbPerfCtr1 v => .access (.wrmsr (Msr.addr (.perfCtr .arb .k1)) v)
  | .rdmsrArbPerfEvtSel0 => .access (.rdmsr (Msr.addr (.perfEvtSel .arb .k0)))
  | .wrmsrArbPerfEvtSel0 v => .access (.wrmsr (Msr.addr (.perfEvtSel .arb .k0)) v)
  | .rdmsrArbPerfEvtSel1 => .access (.rdmsr (Msr.addr (.perfEvtSel .arb .k1)))
  | .wrmsrArbPerfEvtSel1 v => .access (.wrmsr (Msr.addr (.perfEvtSel .arb .k1)) v)
  | .rdmsrCbo0PerfEvtSel0 => .access (.rdmsr (Msr.addr (.perfEvtSel (.cbo .c0) .k0)))
  | .wrmsrCbo0PerfEvtSel0 v => .access (.wrmsr (Msr.addr (.perfEvtSel (.cbo .c0) .k0)) v)
  | .rdmsrCbo0PerfEvtSel1 => .access (.rdmsr (Msr.addr (.perfEvtSel (.cbo .c0) .k1)))
  | .wrmsrCbo0PerfEvtSel1 v => .access (.wrmsr (Msr.addr (.perfEvtSel (.cbo .c0) .k1)) v)
  | .rdmsrCbo0PerfCtr0 => .access (.rdmsr (Msr.addr (.perfCtr (.cbo .c0) .k0)))
  | .wrmsrCbo0PerfCtr0 v => .access (.wrmsr (Msr.addr (.perfCtr (.cbo .c0) .k0)) v)
  | .rdmsrCbo0PerfCtr1 => .access (.rdmsr (Msr.addr (.perfCtr (.cbo .c0) .k1)))
  | .wrmsrCbo0PerfCtr1 v => .access (.wrmsr (Msr.addr (.perfCtr (.cbo .c0) .k1)) v)
  | .rdmsrCbo1PerfEvtSel0 => .access (.rdmsr (Msr.addr (.perfEvtSel (.cbo .c1) .k0)))
  | .wrmsrCbo1PerfEvtSel0 v => .access (.wrmsr (Msr.addr (.perfEvtSel (.cbo .c1) .k0)) v)
  | .rdmsrCbo1PerfEvtSel1 => .access (.rdmsr (Msr.addr (.perfEvtSel (.cbo .c1) .k1)))
  | .wrmsrCbo1PerfEvtSel1 v => .access (.wrmsr (Msr.addr (.perfEvtSel (.cbo .c1) .k1)) v)
  | .rdmsrCbo1PerfCtr0 => .access (.rdmsr (Msr.addr (.perfCtr (.cbo .c1) .k0)))
  | .wrmsrCbo1PerfCtr0 v => .access (.wrmsr (Msr.addr (.perfCtr (.cbo .c1) .k0)) v)
  | .rdmsrCbo1PerfCtr1 => .access (.rdmsr (Msr.addr (.perfCtr (.cbo .c1) .k1)))
  | .wrmsrCbo1PerfCtr1 v => .access (.wrmsr (Msr.addr (.perfCtr (.cbo .c1) .k1)) v)
  | .rdmsrCbo2PerfEvtSel0 => .access (.rdmsr (Msr.addr (.perfEvtSel (.cbo .c2) .k0)))
  | .wrmsrCbo2PerfEvtSel0 v => .access (.wrmsr (Msr.addr (.perfEvtSel (.cbo .c2) .k0)) v)
  | .rdmsrCbo2PerfEvtSel1 => .access (.rdmsr (Msr.addr (.perfEvtSel (.cbo .c2) .k1)))
  | .wrmsrCbo2PerfEvtSel1 v => .access (.wrmsr (Msr.addr (.perfEvtSel (.cbo .c2) .k1)) v)
  | .rdmsrCbo2PerfCtr0 => .access (.rdmsr (Msr.addr (.perfCtr (.cbo .c2) .k0)))
  | .wrmsrCbo2PerfCtr0 v => .access (.wrmsr (Msr.addr (.perfCtr (.cbo .c2) .k0)) v)
  | .rdmsrCbo2PerfCtr1 => .access (.rdmsr (Msr.addr (.perfCtr (.cbo .c2) .k1)))
  | .wrmsrCbo2PerfCtr1 v => .access (.wrmsr (Msr.addr (.perfCtr (.cbo .c2) .k1)) v)
  | .rdmsrCbo3PerfEvtSel0 => .access (.rdmsr (Msr.addr (.perfEvtSel (.cbo .c3) .k0)))
  | .wrmsrCbo3PerfEvtSel0 v => .access (.wrmsr (Msr.addr (.perfEvtSel (.cbo .c3) .k0)) v)
  | .rdmsrCbo3PerfEvtSel1 => .access (.rdmsr (Msr.addr (.perfEvtSel (.cbo .c3) .k1)))
  | .wrmsrCbo3PerfEvtSel1 v => .access (.wrmsr (Msr.addr (.perfEvtSel (.cbo .c3) .k1)) v)
  | .rdmsrCbo3PerfCtr0 => .access (.rdmsr (Msr.addr (.perfCtr (.cbo .c3) .k0)))
  | .wrmsrCbo3PerfCtr0 v => .access (.wrmsr (Msr.addr (.perfCtr (.cbo .c3) .k0)) v)
  | .rdmsrCbo3PerfCtr1 => .access (.rdmsr (Msr.addr (.perfCtr (.cbo .c3) .k1)))
  | .wrmsrCbo3PerfCtr1 v => .access (.wrmsr (Msr.addr (.perfCtr (.cbo .c3) .k1)) v)
  | .rdpmc index => .access (.rdpmc index)
  | .mmioRd32DramGtRequests => .mmio .gtRequests
  | .mmioRd32DramIaRequests => .mmio .iaRequests
  | .mmioRd32DramIoRequests => .mmio .ioRequests
  | .mmioRd32DramDataReads => .mmio .dataReads
  | .mmioRd32DramDataWrites => .mmio .dataWrites
  | .cfgRd32Lo => .access (.cfgRd32 0#8 0#8 0#8 0x48#32)
  | .cfgRd32Hi => .access (.cfgRd32 0#8 0#8 0#8 0x4C#32)
  | .xsnpResponseMissXcore i j mode => .event (.cbo i) j 0x4122#16 mode
  | .xsnpResponseMissEviction i j mode => .event (.cbo i) j 0x8122#16 mode
  | .xsnpResponseHitXcore i j mode => .event (.cbo i) j 0x4422#16 mode
  | .xsnpResponseHitmXcore i j mode => .event (.cbo i) j 0x4822#16 mode
  | .cacheLookupWriteM i j mode => .event (.cbo i) j 0x2134#16 mode
  | .cacheLookupAnyM i j mode => .event (.cbo i) j 0x8134#16 mode
  | .cacheLookupReadI i j mode => .event (.cbo i) j 0x1834#16 mode
  | .cacheLookupAnyI i j mode => .event (.cbo i) j 0x8834#16 mode
  | .cacheLookupReadMesi i j mode => .event (.cbo i) j 0x1F34#16 mode
  | .cacheLookupWriteMesi i j mode => .event (.cbo i) j 0x2F34#16 mode
  | .cacheLookupAnyMesi i j mode => .event (.cbo i) j 0x8F34#16 mode
  | .cacheLookupAnyEs i j mode => .event (.cbo i) j 0x8634#16 mode
  | .cacheLookupReadEs i j mode => .event (.cbo i) j 0x1634#16 mode
  | .cacheLookupWriteEs i j mode => .event (.cbo i) j 0x2634#16 mode
  | .arbTrkOccupancyAll mode => .event .arb .k0 0x0180#16 mode
  | .arbTrkRequestsAll j mode => .event .arb j 0x0181#16 mode
  | .arbTrkRequestsWrites j mode => .event .arb j 0x2081#16 mode
  | .arbCohTrkRequestsAll j mode => .event .arb j 0x0184#16 mode
  | .arbTrkOccupancyCyclesWithAnyRequest mode => .event .arb .k0 0x0180#16 mode
  | .clockSocket => .label

/-- The content of an event-select register that selects the event with a code, in a mode (R108, R110). -/
def evtSelOf (code : BitVec 16) (mode : CountMode) : EvtSel :=
  { mode := mode, umask := code.extractLsb' 8 8, evt := code.extractLsb' 0 8 }

/-- The place and the words of an instruction. -/
def encode (bar : Nat) (i : Instr) : Place × List Byte :=
  match i.form with
  | .access a => (.record, a.encode)
  | .mmio c => (.record, (Access.memRead (bar + c.offset) 4).encode)
  | .event u j code mode => (.slot u j, bytes64 (evtSelOf code mode).pack)
  | .label => (.fixed, [0x00#8, 0x01#8])

/-! ### The numbers of spec/opcode_table.json

A row's number does not say its format: an MSR address is the number of a read row and of a write row. The numbers
of the other formats are disjoint, so a number is read in the first format, in this order, in which the decoder
accepts it (log 9). -/

/-- The readings of a table number, most specific mask first (R122). -/
def tableReadings (bar n : Nat) : List (Place × List Byte) :=
  [(.record, (Access.rdmsr (BitVec.ofNat 32 n)).encode),
    (.record, (Access.memRead (bar + n) 4).encode),
    (.record, (Access.cfgRd32 0#8 0#8 0#8 (BitVec.ofNat 32 n)).encode),
    (.slot (.cbo .c0) .k0, bytes64 (BitVec.ofNat 64 n)),
    (.slot .arb .k0, bytes64 (BitVec.ofNat 64 n)),
    (.fixed, [BitVec.ofNat 8 n, BitVec.ofNat 8 (n / 256)]),
    (.record, (Access.rdpmc (BitVec.ofNat 32 n)).encode)]

/-- The decoder accepts a reading. -/
def accepts (bar : Nat) (x : Place × List Byte) : Bool :=
  match decode bar x.1 x.2 with
  | .ok _ => true
  | .error _ => false

/-- The first reading of a table number that the decoder accepts. -/
def tableReading (bar n : Nat) : Option (Place × List Byte) := (tableReadings bar n).find? (accepts bar)

/-- The instruction that the decoder reads from a table word of `nbits` bits. -/
def decodeTableWord (nbits w : Nat) : Option Instr :=
  match tableReading 0 (w % 2 ^ nbits) with
  | some x => (decode 0 x.1 x.2).toOption
  | none => none

end Sys2Proof
end

