-- ==== Sys2Proof/Machine/State.lean ====
section
/-! DEFINITION. The state (10_state.md), the parameters of the part (00_scope.md R9), the ways a step can stop, and
the state right after reset. Reserved bits are not state (R47), so a register is the structure of its fields. -/

namespace Sys2Proof.Machine

open Sys2Proof

/-- A set of cores 0 to 3: `asleep` (R46), the PMI_SEL_COREn bits (R27), the targets of a PMI (R301). -/
structure CoreSet where
  p0 : Bool
  p1 : Bool
  p2 : Bool
  p3 : Bool
deriving DecidableEq, Repr, Inhabited

/-- One value for each core. -/
structure PerCore where
  p0 : Word64
  p1 : Word64
  p2 : Word64
  p3 : Word64
deriving DecidableEq, Repr, Inhabited

/-! ### The registers -/

/-- MSR_UNC_PERF_GLOBAL_CTRL (R23 to R27). -/
structure GlobalCtrl where
  /-- Bit 31 (R24). -/
  frzOnPmi : Bool
  /-- Bit 30 (R25). -/
  wakeOnPmi : Bool
  /-- Bit 29, the global enable (R26). -/
  en : Bool
  /-- PMI_SEL_CORE3 to PMI_SEL_CORE0, bits 3 to 0 (R27). -/
  pmiSel : CoreSet
deriving DecidableEq, Repr, Inhabited

/-- MSR_UNC_PERF_GLOBAL_STATUS (R28, R29). -/
structure GlobalStatus where
  /-- CBOX_CTR_OVF, bit 3 (90_conflicts.md C1). -/
  cboxOvf : Bool
  /-- ARB_CTR_OVF, bit 1. -/
  arbOvf : Bool
  /-- FIXED_CTR_OVF, bit 0. -/
  fixedOvf : Bool
deriving DecidableEq, Repr, Inhabited

/-- MSR_UNC_PERF_FIXED_CTRL (R30). -/
structure FixedCtrl where
  /-- CNT_EN, bit 22. -/
  cntEn : Bool
  /-- OVF_EN, bit 20. -/
  ovfEn : Bool
deriving DecidableEq, Repr, Inhabited

/-- What belongs to one programmable counter (u, j): its event-select register (R34), its counter register (R40)
and its hidden edge history `prev_active(u, j)` (R44). -/
structure Slot where
  sel : EvtSel
  ctr : Ctr44
  prevActive : Bool
deriving DecidableEq, Repr, Inhabited

/-- The two programmable counters of a unit (R41). -/
structure Bank where
  k0 : Slot
  k1 : Slot
deriving DecidableEq, Repr, Inhabited

/-- The five counters of the integrated memory controller (R42). -/
structure ImcCtrs where
  gt : Word32
  ia : Word32
  io : Word32
  reads : Word32
  writes : Word32
deriving DecidableEq, Repr, Inhabited

/-- The state of the PMU: the registers and the hidden state (R11). MSR_UNC_CBO_CONFIG is read from
`Part.nCbo` (R33). A bank of a CBo the part lacks is there and no step reaches it. -/
structure Pmu where
  gctrl : GlobalCtrl
  gstat : GlobalStatus
  fctrl : FixedCtrl
  /-- MSR_UNC_PERF_FIXED_CTR.CTR_VAL (R31). -/
  fctr : Ctr48
  arb : Bank
  cbo0 : Bank
  cbo1 : Bank
  cbo2 : Bank
  cbo3 : Bank
  imc : ImcCtrs
  /-- A PMI request not yet forwarded (R45). -/
  pmiPending : Bool
  /-- The sleeping cores (R46). -/
  asleep : CoreSet
deriving DecidableEq, Repr, Inhabited

/-! ### The parameters of the part (R9) -/

/-- A number of CBos or of cores: 1 to 4 (R9). -/
inductive UpToFour where
  | one | two | three | four
deriving DecidableEq, Repr, Inhabited

/-- The number. -/
def UpToFour.toNat : UpToFour → Nat
  | .one => 1 | .two => 2 | .three => 3 | .four => 4

/-- RESERVED_WRITE: what a 1 written to a reserved bit does (R118). -/
inductive ReservedWrite where
  | refuse | fault | ignore
deriving DecidableEq, Repr, Inhabited

/-- RESERVED_READ: what reserved bits read as (R119). -/
inductive ReservedRead where
  | any | zero
deriving DecidableEq, Repr, Inhabited

/-- The parameters that the source leaves to the particular processor (R9). No step changes them; they stand in the
state so that a claim about all states is a claim about all parts (log 3). -/
structure Part where
  /-- N_CBO. -/
  nCbo : UpToFour
  /-- N_CORES. -/
  nCores : UpToFour
  /-- The 64-bit value at PCI 0:0.0 offset 0x48 (R262, R268). -/
  cfg48 : Word64
  /-- IMC_BAR_MASK, which the spec makes a parameter (R9, N14). -/
  imcBarMask : Word64
  /-- OVF_STATUS_GATED, OPEN (R296). -/
  ovfStatusGated : Bool
  reservedWrite : ReservedWrite
  reservedRead : ReservedRead
  /-- MAX_INC; none is unbounded (R191, log 17). -/
  maxInc : Option Nat
deriving DecidableEq, Repr, Inhabited

/-! ### The state -/

/-- The state of the machine: the PMU, the part, and the model's own fields (INVENTORY.md, State). -/
structure State where
  pmu : Pmu
  part : Part
  /-- The model's own: the record of the CBo cycle being counted (R210). -/
  cboCycle : CboCycle
  /-- The model's own: the record of the ARB cycle being counted (R240). -/
  arbCycle : ArbCycle
  /-- The model's own: the agents' steps to come, next one first (R10, R87, log 2). -/
  schedule : List Action
  /-- The model's own: the core whose access operation is running (R10). -/
  issuer : CoreIdx
  /-- The model's own: what each core's last read operation returned, `ok(v)` (R13). -/
  results : PerCore
  /-- The model's own: the labels `pmi_delivered(k)` emitted so far, oldest delivery first (R303, log 19); those of one
  delivery in rising core order (DESIGN CHOICE, log 27). -/
  delivered : List CoreIdx
  /-- The model's own: how many free values were drawn (R16, `draw(T)`). -/
  draws : Nat
deriving DecidableEq, Repr, Inhabited

/-- The outcomes `fault(reason)` of R291: the hardware raises an exception in the issuing core; the PMU is
unchanged. -/
inductive Fault where
  /-- Raised by WRMSR of the read-only MSR_UNC_CBO_CONFIG, for every value (R171). Safe: nothing is claimed of what
  follows. -/
  | writeToReadOnlyMsr
  /-- Raised by a WRMSR with a 1 in a reserved bit where RESERVED_WRITE is `fault` (R118). Safe. -/
  | reservedBitSet
deriving DecidableEq, Repr

/-- The outcomes `refuse(reason)` of R291, and the model's own. -/
inductive Refusal where
  /-- Raised by an arm of `exec` whose instruction has no meaning yet. Safe. -/
  | notModelled (mnemonic : String)
  /-- Raised by a step whose operation record decodes to no instruction, with the decoder's reason. Safe. -/
  | rejected (why : Reject)
  /-- Raised by a WRMSR with a 1 in a reserved bit where RESERVED_WRITE is `refuse`, the spec's default (R118).
  Safe. -/
  | reservedBitSet
  /-- Raised by an access to a register, or by an event selection, of a CBo the part lacks (R75). Safe. -/
  | cboNotPresent
  /-- Raised by RDPMC, whatever the index (R103). Safe. -/
  | rdpmcIndexNotInSource
  /-- Raised by a step whose schedule names an agent that has no step there: `pmi` with nothing pending (R300), a
  tick of an absent CBo (R10), a core the part lacks (R312), an access by a sleeping core (R312), a cycle record
  beyond MAX_INC (R191). Safe: the spec gives no such step (log 16). -/
  | agentNotEnabled
deriving DecidableEq, Repr

/-! ### Reset

The source gives no reset value of anything (R47, R340); each value is the model's choice (log 3 to 7). -/

/-- The empty set of cores. -/
def CoreSet.empty : CoreSet := ⟨false, false, false, false⟩

/-- A programmable counter with all fields 0 (log 4, log 6). -/
def Slot.zero : Slot :=
  { sel := { mode := { thr := 0#5, inv := false, en := false, ovfEn := false, edge := false },
             umask := 0#8, evt := 0#8 },
    ctr := 0#44, prevActive := false }

/-- A unit with both counters 0 (log 4, log 6). -/
def Bank.zero : Bank := ⟨Slot.zero, Slot.zero⟩

/-- The PMU with every field 0 (log 4 to 6). -/
def Pmu.reset : Pmu where
  gctrl := { frzOnPmi := false, wakeOnPmi := false, en := false, pmiSel := CoreSet.empty }
  gstat := { cboxOvf := false, arbOvf := false, fixedOvf := false }
  fctrl := { cntEn := false, ovfEn := false }
  fctr := 0#48
  arb := Bank.zero
  cbo0 := Bank.zero
  cbo1 := Bank.zero
  cbo2 := Bank.zero
  cbo3 := Bank.zero
  imc := ⟨0#32, 0#32, 0#32, 0#32, 0#32⟩
  pmiPending := false
  asleep := CoreSet.empty

/-- The part at reset: the values that 95_test_vectors.md takes, and the spec's defaults (log 3). -/
def Part.reset : Part where
  nCbo := .four
  nCores := .four
  cfg48 := 0#64
  imcBarMask := Config.imcBarMask
  ovfStatusGated := false
  reservedWrite := .refuse
  reservedRead := .any
  maxInc := none

/-- The machine right after reset (R47, R340; log 3 to 7). -/
def State.reset : State where
  pmu := Pmu.reset
  part := Part.reset
  cboCycle := ⟨[], []⟩
  arbCycle := ⟨0, [], 0⟩
  schedule := []
  issuer := .p0
  results := ⟨0#64, 0#64, 0#64, 0#64⟩
  delivered := []
  draws := 0

end Sys2Proof.Machine
end

