-- ==== Sys2Proof/Machine/Operands.lean ====
section
/-! DEFINITION. The operand forms: the register value formats (30_encoding.md R107 to R109; EVTSEL is in
Sys2Proof/Decode.lean), the set operations on cores, the accessors of registers, and the event increments computed
from a cycle record (43_cbo_events.md, 44_arb_events.md). -/

namespace Sys2Proof.Machine

open Sys2Proof

/-! ### Sets of cores, per-core values, the part -/

/-- Core `n` is in the set. -/
def CoreSet.mem (x : CoreSet) : CoreIdx → Bool
  | .p0 => x.p0 | .p1 => x.p1 | .p2 => x.p2 | .p3 => x.p3

/-- The set with core `n` put in (`b = true`) or taken out. -/
def CoreSet.put (x : CoreSet) (n : CoreIdx) (b : Bool) : CoreSet :=
  match n with
  | .p0 => { x with p0 := b }
  | .p1 => { x with p1 := b }
  | .p2 => { x with p2 := b }
  | .p3 => { x with p3 := b }

/-- Intersection. -/
def CoreSet.inter (x y : CoreSet) : CoreSet := ⟨x.p0 && y.p0, x.p1 && y.p1, x.p2 && y.p2, x.p3 && y.p3⟩

/-- Difference. -/
def CoreSet.diff (x y : CoreSet) : CoreSet := ⟨x.p0 && !y.p0, x.p1 && !y.p1, x.p2 && !y.p2, x.p3 && !y.p3⟩

/-- The members, in rising order. -/
def CoreSet.toList (x : CoreSet) : List CoreIdx :=
  [CoreIdx.p0, CoreIdx.p1, CoreIdx.p2, CoreIdx.p3].filter x.mem

/-- The per-core values with core `n`'s replaced. -/
def PerCore.put (x : PerCore) (n : CoreIdx) (v : Word64) : PerCore :=
  match n with
  | .p0 => { x with p0 := v }
  | .p1 => { x with p1 := v }
  | .p2 => { x with p2 := v }
  | .p3 => { x with p3 := v }

/-- Core `n`'s value. -/
def PerCore.get (x : PerCore) : CoreIdx → Word64
  | .p0 => x.p0 | .p1 => x.p1 | .p2 => x.p2 | .p3 => x.p3

/-- Core `n` is one of the part's cores, `n < N_CORES` (R9). -/
def Part.hasCore (p : Part) (n : CoreIdx) : Bool := n.toNat < p.nCores.toNat

/-- The part's cores, 0 to N_CORES - 1 (R9). -/
def Part.cores (p : Part) : CoreSet := ⟨p.hasCore .p0, p.hasCore .p1, p.hasCore .p2, p.hasCore .p3⟩

/-- The unit exists on the part: the ARB always, CBo `i` when `i < N_CBO` (R22, R75). -/
def Part.hasUnit (p : Part) : UnitId → Bool
  | .arb => true
  | .cbo i => i.toNat < p.nCbo.toNat

/-- IMC_BAR of the part, from its configuration value and its mask (R9, R262). -/
def Part.imcBar (p : Part) : Nat := Sys2Proof.imcBar p.imcBarMask p.cfg48

/-- NO_CBO_BANKS, which is N_CBO + 1 (R33). -/
def Part.noCboBanks (p : Part) : BitVec 4 := BitVec.ofNat 4 (p.nCbo.toNat + 1)

/-! ### Accessors (R41, R42) -/

/-- Counter `j` of a bank. -/
def Bank.get (b : Bank) : CtrIdx → Slot
  | .k0 => b.k0 | .k1 => b.k1

/-- The bank with counter `j` replaced. -/
def Bank.put (b : Bank) (j : CtrIdx) (x : Slot) : Bank :=
  match j with
  | .k0 => { b with k0 := x }
  | .k1 => { b with k1 := x }

/-- The bank of a unit. -/
def Pmu.bank (p : Pmu) : UnitId → Bank
  | .arb => p.arb
  | .cbo .c0 => p.cbo0
  | .cbo .c1 => p.cbo1
  | .cbo .c2 => p.cbo2
  | .cbo .c3 => p.cbo3

/-- The PMU with the bank of a unit replaced. -/
def Pmu.putBank (p : Pmu) (u : UnitId) (b : Bank) : Pmu :=
  match u with
  | .arb => { p with arb := b }
  | .cbo .c0 => { p with cbo0 := b }
  | .cbo .c1 => { p with cbo1 := b }
  | .cbo .c2 => { p with cbo2 := b }
  | .cbo .c3 => { p with cbo3 := b }

/-- Programmable counter (u, j): `sel(u, j)`, `ctr(u, j)` and `prev_active(u, j)` (R41, R44). -/
def Pmu.slot (p : Pmu) (u : UnitId) (j : CtrIdx) : Slot := (p.bank u).get j

/-- The PMU with programmable counter (u, j) replaced. -/
def Pmu.putSlot (p : Pmu) (u : UnitId) (j : CtrIdx) (x : Slot) : Pmu := p.putBank u ((p.bank u).put j x)

/-- `imc(c)` (R42). -/
def ImcCtrs.get (m : ImcCtrs) : ImcCtr → Word32
  | .gtRequests => m.gt
  | .iaRequests => m.ia
  | .ioRequests => m.io
  | .dataReads => m.reads
  | .dataWrites => m.writes

/-- `imc(c) <- v`. -/
def ImcCtrs.put (m : ImcCtrs) (c : ImcCtr) (v : Word32) : ImcCtrs :=
  match c with
  | .gtRequests => { m with gt := v }
  | .iaRequests => { m with ia := v }
  | .ioRequests => { m with io := v }
  | .dataReads => { m with reads := v }
  | .dataWrites => { m with writes := v }

/-! ### Value formats (R107 to R109) -/

/-- The mask of defined bits of GCTRL. -/
def gctrlMask : Word64 := 0x00000000E000000F#64
/-- The mask of defined bits of GSTAT. -/
def gstatMask : Word64 := 0x000000000000000B#64
/-- The mask of defined bits of FCTRL. -/
def fctrlMask : Word64 := 0x0000000000500000#64
/-- The mask of defined bits of CTR48. -/
def ctr48Mask : Word64 := 0x0000FFFFFFFFFFFF#64
/-- The mask of defined bits of CBOCFG. -/
def cboCfgMask : Word64 := 0x000000000000000F#64
/-- The mask of defined bits of CTR44. -/
def ctr44Mask : Word64 := 0x00000FFFFFFFFFFF#64

/-- `GCTRL(..)` of R108. -/
def GlobalCtrl.pack (x : GlobalCtrl) : Word64 :=
  bitAt x.frzOnPmi 31 ||| bitAt x.wakeOnPmi 30 ||| bitAt x.en 29 ||| bitAt x.pmiSel.p3 3 ||| bitAt x.pmiSel.p2 2
    ||| bitAt x.pmiSel.p1 1 ||| bitAt x.pmiSel.p0 0

/-- The fields of a GCTRL value (R109, R131). -/
def GlobalCtrl.unpack (v : Word64) : GlobalCtrl where
  frzOnPmi := v.getLsbD 31
  wakeOnPmi := v.getLsbD 30
  en := v.getLsbD 29
  pmiSel := ⟨v.getLsbD 0, v.getLsbD 1, v.getLsbD 2, v.getLsbD 3⟩

/-- `GSTAT(..)` of R108. -/
def GlobalStatus.pack (x : GlobalStatus) : Word64 := bitAt x.cboxOvf 3 ||| bitAt x.arbOvf 1 ||| bitAt x.fixedOvf 0

/-- `FCTRL(..)` of R108. -/
def FixedCtrl.pack (x : FixedCtrl) : Word64 := bitAt x.cntEn 22 ||| bitAt x.ovfEn 20

/-- The fields of an FCTRL value (R109, R151). -/
def FixedCtrl.unpack (v : Word64) : FixedCtrl where
  cntEn := v.getLsbD 22
  ovfEn := v.getLsbD 20

/-! ### Event increments (R191) -/

/-- Which requests an event 0x34 counts, `is_req(l, K)` (R217). -/
inductive ReqSel where
  | read | write | any
deriving DecidableEq, Repr

/-- `is_req(l, K)`: ANY is true of every lookup, whatever its kind (R217). -/
def ReqSel.admits : ReqSel → ReqKind → Bool
  | .read, k => k == .read
  | .write, k => k == .write
  | .any, _ => true

/-- How many lookups of the cycle are of a selected kind and found the line in one of `states` (R217). -/
def lookupCount (req : ReqSel) (states : List Mesi) (c : CboCycle) : Nat :=
  c.lookups.countP fun l => req.admits l.req && states.contains l.state

/-- How many snoop responses of the cycle have the cause and the response (R212 to R216). -/
def snoopCount (cause : SnoopCause) (resp : SnoopResp) (c : CboCycle) : Nat :=
  c.snoops.countP fun x => x.cause == cause && x.resp == resp

/-- How many core outgoing entries are allocated in the cycle (R242). -/
def allocCount (c : ArbCycle) : Nat := c.trkAlloc.length

/-- How many of the allocated entries are writes (R243). -/
def writeAllocCount (c : ArbCycle) : Nat := c.trkAlloc.countP fun k => k == .write

/-- A number is one an event can deliver in a cycle on the part (R191, log 17). -/
def Part.admitsInc (p : Part) (n : Nat) : Bool :=
  match p.maxInc with
  | none => true
  | some m => n ≤ m

/-- Every listed CBo event delivers at most MAX_INC from the record: ANY_MESI bounds the lookups (R224, R228). -/
def Part.admitsCbo (p : Part) (c : CboCycle) : Bool :=
  p.admitsInc c.lookups.length && p.admitsInc (snoopCount .xcore .miss c) && p.admitsInc (snoopCount .eviction .miss c)
    && p.admitsInc (snoopCount .xcore .hit c) && p.admitsInc (snoopCount .xcore .hitm c)

/-- Every listed ARB event delivers at most MAX_INC from the record (R241 to R245). -/
def Part.admitsArb (p : Part) (c : ArbCycle) : Bool :=
  p.admitsInc c.trkValid && p.admitsInc c.trkAlloc.length && p.admitsInc c.cohTrkAlloc

/-- The increment of an unlisted or misplaced event: a draw, at most MAX_INC (R114, log 13). -/
def Part.freeInc (p : Part) (n : Nat) : Nat :=
  match p.maxInc with
  | none => Config.freeIncrement n
  | some m => min (Config.freeIncrement n) m

end Sys2Proof.Machine
end

