-- ==== Sys2Proof/Machine/Flags.lean ====
section
/-! DEFINITION. The flag computations: threshold, edge, carry out of a counter, and the three overflow status bits
(42_cbo_arb_counters.md R192, R193, R195; 60_exceptions.md R296; 40_global_registers.md R137). -/

namespace Sys2Proof.Machine

open Sys2Proof

/-- `Threshold(inc, thr, inv)` (R192): a zero threshold passes the increment through, whatever INV says. -/
def threshold (inc : Nat) (thr : BitVec 5) (inv : Bool) : Nat :=
  if thr = 0#5 then inc
  else if inv then (if inc < thr.toNat then 1 else 0)
  else (if thr.toNat ≤ inc then 1 else 0)

/-- `EdgeOrLevel(lvl, e, prev)` (R193). -/
def edgeOrLevel (lvl : Nat) (edge prev : Bool) : Nat :=
  if edge then (if lvl ≠ 0 ∧ prev = false then 1 else 0) else lvl

/-- What an overflow comes from (R293). -/
inductive OvfSource where
  | fixed
  | counter (u : UnitId)
deriving DecidableEq, Repr

/-- The status bit of a source set to 1 (R296). -/
def GlobalStatus.setBit (g : GlobalStatus) : OvfSource → GlobalStatus
  | .fixed => { g with fixedOvf := true }
  | .counter .arb => { g with arbOvf := true }
  | .counter (.cbo _) => { g with cboxOvf := true }

/-- `RecordStatus(src, ovf_en)` (R296): OVF_STATUS_GATED says whether OVF_EN gates the recording. -/
def recordStatus (gated ovfEn : Bool) (src : OvfSource) (g : GlobalStatus) : GlobalStatus :=
  if gated = false ∨ ovfEn = true then g.setBit src else g

/-- A write to the status register (R137): a 1 clears its bit, a 0 leaves it. -/
def GlobalStatus.clearBits (g : GlobalStatus) (v : Word64) : GlobalStatus where
  cboxOvf := g.cboxOvf && !v.getLsbD 3
  arbOvf := g.arbOvf && !v.getLsbD 1
  fixedOvf := g.fixedOvf && !v.getLsbD 0

end Sys2Proof.Machine
end

