-- ==== Sys2Proof/Machine/Ops.lean ====
section
/-! DEFINITION. The shared operations: reading a register for a core, writing one, counting a cycle, and what stands
in the place of an exception on this hardware: the overflow with its PMI request (R295, R297) and the delivery of
the PMI with its routing, wake and freeze (R300 to R302). The PMU has no return from an interrupt (R306). -/

namespace Sys2Proof.Machine

open Sys2Proof

/-- What an operation answers. -/
abbrev Answer := Host.Outcome State Fault Refusal

/-- The state with another PMU state. -/
def State.withPmu (s : State) (p : Pmu) : State := { s with pmu := p }

/-- The state after one more draw. -/
def State.drawn (s : State) : State := { s with draws := s.draws + 1 }

/-! ### Read operations -/

/-- `ok(v)` of a read (R13): the issuing core receives `v`. -/
def State.giveResult (s : State) (v : Word64) : State := { s with results := s.results.put s.issuer v }

/-- `res(mask)` (40_global_registers.md; R119): 0 inside the mask, outside it free bits, or zeros under
RESERVED_READ = zero. -/
def State.reservedBits (s : State) (mask : Word64) : Word64 :=
  match s.part.reservedRead with
  | .any => Config.freeBits s.draws &&& ~~~mask
  | .zero => 0#64

/-- RDMSR: the defined fields of the register and `res(mask)` (R119). The PMU is unchanged (R84). -/
def readMsr (mask fields : Word64) (s : State) : Answer := .next (s.giveResult (fields ||| s.reservedBits mask)).drawn

/-- A 32-bit read, whose value has no reserved bits (R266, R268): returned in the low half. -/
def read32 (v : Word32) (s : State) : Answer := .next (s.giveResult (v.setWidth 64))

/-! ### Write operations -/

/-- WRMSR: the value is checked against the format's reserved bits before the write rule applies (R102, R118). -/
def writeMsr (mask v : Word64) (s : State) (p : Pmu) : Answer :=
  if v &&& ~~~mask = 0#64 then .next (s.withPmu p)
  else
    match s.part.reservedWrite with
    | .refuse => .refused .reservedBitSet
    | .fault => .fault .reservedBitSet
    | .ignore => .next (s.withPmu p)

/-- An operation on a unit: the presence check comes before all others (R75, R291). -/
def ifPresent (u : UnitId) (s : State) (k : State → Answer) : Answer :=
  if s.part.hasUnit u then k s else .refused .cboNotPresent

/-! ### The registers of a unit (R174 to R183) -/

/-- RDMSR of `sel(u, j)` (R174, R176). -/
def readEvtSel (u : UnitId) (j : CtrIdx) (s : State) : Answer :=
  ifPresent u s (readMsr evtSelMask (s.pmu.slot u j).sel.pack)

/-- WRMSR of `sel(u, j)` (R175, R177): the counter and the edge history are not touched. -/
def writeEvtSel (u : UnitId) (j : CtrIdx) (v : Word64) (s : State) : Answer :=
  ifPresent u s fun s =>
    writeMsr evtSelMask v s (s.pmu.putSlot u j { s.pmu.slot u j with sel := EvtSel.unpack v })

/-- RDMSR of `ctr(u, j)` (R180, R182). -/
def readCtr (u : UnitId) (j : CtrIdx) (s : State) : Answer :=
  ifPresent u s (readMsr ctr44Mask ((s.pmu.slot u j).ctr.setWidth 64))

/-- WRMSR of `ctr(u, j)` (R181, R183): no flag, no PMI, no edge history changes. -/
def writeCtr (u : UnitId) (j : CtrIdx) (v : Word64) (s : State) : Answer :=
  ifPresent u s fun s =>
    writeMsr ctr44Mask v s (s.pmu.putSlot u j { s.pmu.slot u j with ctr := v.setWidth 44 })

/-- `MMIO_RD32` of an IMC counter (R266): the whole 32-bit count. -/
def readImc (c : ImcCtr) (s : State) : Answer := read32 (s.pmu.imc.get c) s

/-! ### Overflow and the PMI -/

/-- `Overflow(src)` (R295): the status is recorded (R296), and with OVF_EN = 1 a PMI is requested (R297). The counter
has wrapped already, and nothing is frozen yet. -/
def overflow (gated : Bool) (src : OvfSource) (ovfEn : Bool) (p : Pmu) : Pmu :=
  { p with gstat := recordStatus gated ovfEn src p.gstat, pmiPending := p.pmiPending || ovfEn }

/-- The selected cores of R301; a bit n ≥ N_CORES selects nothing (R27). -/
def State.selectedCores (s : State) : CoreSet := s.pmu.gctrl.pmiSel.inter s.part.cores

/-- `Targets()` (R301): all selected cores under WAKE_ON_PMI, else the awake ones among them. -/
def State.pmiTargets (s : State) : CoreSet :=
  if s.pmu.gctrl.wakeOnPmi then s.selectedCores else s.selectedCores.diff s.pmu.asleep

/-- The sleeping cores after the wake requests of R301. -/
def State.asleepAfterPmi (s : State) : CoreSet :=
  if s.pmu.gctrl.wakeOnPmi then s.pmu.asleep.diff s.selectedCores else s.pmu.asleep

/-- Delivering a PMI (R300): routing and wake (R301), freeze (R302), the labels `pmi_delivered(k)` (R303).
DESIGN CHOICE: the labels of one delivery are emitted in rising core order, where R300 says only "for every k in
targets" (log 27). -/
def deliverPmi (s : State) : State :=
  { s with
    pmu :=
      { s.pmu with
        gctrl := { s.pmu.gctrl with en := s.pmu.gctrl.en && !s.pmu.gctrl.frzOnPmi }
        asleep := s.asleepAfterPmi
        pmiPending := false }
    delivered := s.delivered ++ s.pmiTargets.toList }

/-! ### Counting -/

/-- One uncore clock cycle of the fixed counter (R158). -/
def countFixed (s : State) : State :=
  if s.pmu.gctrl.en && s.pmu.fctrl.cntEn then
    let sum := s.pmu.fctr.toNat + 1
    let p := { s.pmu with fctr := BitVec.ofNat 48 sum }
    s.withPmu (if 2 ^ 48 ≤ sum then overflow s.part.ovfStatusGated .fixed s.pmu.fctrl.ovfEn p else p)
  else s

/-- The number a counter advances by: threshold and invert, then edge or level (R190, R192, R193). -/
def countDelta (mode : CountMode) (inc : Nat) (prev : Bool) : Nat :=
  edgeOrLevel (threshold inc mode.thr mode.inv) mode.edge prev

/-- The body of R190's loop for counter (u, j) with the event increment `inc`. A counter that does not count keeps its
value, and its edge history becomes a free value (log 12). -/
def countSlot (u : UnitId) (j : CtrIdx) (mode : CountMode) (inc : Nat) (s : State) : State :=
  let x := s.pmu.slot u j
  if s.pmu.gctrl.en && mode.en then
    let sum := x.ctr.toNat + countDelta mode inc x.prevActive
    let p := s.pmu.putSlot u j
      { x with ctr := BitVec.ofNat 44 sum, prevActive := decide (threshold inc mode.thr mode.inv ≠ 0) }
    s.withPmu (if 2 ^ 44 ≤ sum then overflow s.part.ovfStatusGated (.counter u) mode.ovfEn p else p)
  else
    (s.withPmu (s.pmu.putSlot u j { x with prevActive := Config.freeEdge s.draws })).drawn

/-- Executing an event selection for one cycle of its unit (43_cbo_events.md, opening; R190; log 1). -/
def countEvent (u : UnitId) (j : CtrIdx) (mode : CountMode) (inc : Nat) (s : State) : Answer :=
  ifPresent u s fun s => .next (countSlot u j mode inc s)

/-- One counted event of an IMC counter (R270): modulo 2^32, never gated (R264, R265). -/
def countImc (c : ImcCtr) (s : State) : State :=
  s.withPmu { s.pmu with imc := s.pmu.imc.put c (s.pmu.imc.get c + 1#32) }

end Sys2Proof.Machine
end

