-- ==== Sys2Proof/Machine/Arb.lean ====
section
/-! DEFINITION. The ARB's event-select and counter registers (42_cbo_arb_counters.md R176, R177, R182, R183). -/

namespace Sys2Proof.Machine

open Sys2Proof

/-- RDMSR 0x3B0 (R182). -/
def execRdmsrArbPerfCtr0 (s : State) : Answer := readCtr .arb .k0 s

/-- WRMSR 0x3B0 (R183). -/
def execWrmsrArbPerfCtr0 (v : Word64) (s : State) : Answer := writeCtr .arb .k0 v s

/-- RDMSR 0x3B1 (R182). -/
def execRdmsrArbPerfCtr1 (s : State) : Answer := readCtr .arb .k1 s

/-- WRMSR 0x3B1 (R183). -/
def execWrmsrArbPerfCtr1 (v : Word64) (s : State) : Answer := writeCtr .arb .k1 v s

/-- RDMSR 0x3B2 (R176). -/
def execRdmsrArbPerfEvtSel0 (s : State) : Answer := readEvtSel .arb .k0 s

/-- WRMSR 0x3B2 (R177). -/
def execWrmsrArbPerfEvtSel0 (v : Word64) (s : State) : Answer := writeEvtSel .arb .k0 v s

/-- RDMSR 0x3B3 (R176). -/
def execRdmsrArbPerfEvtSel1 (s : State) : Answer := readEvtSel .arb .k1 s

/-- WRMSR 0x3B3 (R177). -/
def execWrmsrArbPerfEvtSel1 (v : Word64) (s : State) : Answer := writeEvtSel .arb .k1 v s

end Sys2Proof.Machine
end

