-- ==== Sys2Proof/Machine/Cbo.lean ====
section
/-! DEFINITION. The CBos' event-select and counter registers (42_cbo_arb_counters.md R174, R175, R180, R181).
Each is preceded by the presence check (R75). -/

namespace Sys2Proof.Machine

open Sys2Proof

/-- RDMSR 0x700 (R174). -/
def execRdmsrCbo0PerfEvtSel0 (s : State) : Answer := readEvtSel (.cbo .c0) .k0 s

/-- WRMSR 0x700 (R175). -/
def execWrmsrCbo0PerfEvtSel0 (v : Word64) (s : State) : Answer := writeEvtSel (.cbo .c0) .k0 v s

/-- RDMSR 0x701 (R174). -/
def execRdmsrCbo0PerfEvtSel1 (s : State) : Answer := readEvtSel (.cbo .c0) .k1 s

/-- WRMSR 0x701 (R175). -/
def execWrmsrCbo0PerfEvtSel1 (v : Word64) (s : State) : Answer := writeEvtSel (.cbo .c0) .k1 v s

/-- RDMSR 0x706 (R180). -/
def execRdmsrCbo0PerfCtr0 (s : State) : Answer := readCtr (.cbo .c0) .k0 s

/-- WRMSR 0x706 (R181). -/
def execWrmsrCbo0PerfCtr0 (v : Word64) (s : State) : Answer := writeCtr (.cbo .c0) .k0 v s

/-- RDMSR 0x707 (R180). -/
def execRdmsrCbo0PerfCtr1 (s : State) : Answer := readCtr (.cbo .c0) .k1 s

/-- WRMSR 0x707 (R181). -/
def execWrmsrCbo0PerfCtr1 (v : Word64) (s : State) : Answer := writeCtr (.cbo .c0) .k1 v s

/-- RDMSR 0x710 (R174). -/
def execRdmsrCbo1PerfEvtSel0 (s : State) : Answer := readEvtSel (.cbo .c1) .k0 s

/-- WRMSR 0x710 (R175). -/
def execWrmsrCbo1PerfEvtSel0 (v : Word64) (s : State) : Answer := writeEvtSel (.cbo .c1) .k0 v s

/-- RDMSR 0x711 (R174). -/
def execRdmsrCbo1PerfEvtSel1 (s : State) : Answer := readEvtSel (.cbo .c1) .k1 s

/-- WRMSR 0x711 (R175). -/
def execWrmsrCbo1PerfEvtSel1 (v : Word64) (s : State) : Answer := writeEvtSel (.cbo .c1) .k1 v s

/-- RDMSR 0x716 (R180). -/
def execRdmsrCbo1PerfCtr0 (s : State) : Answer := readCtr (.cbo .c1) .k0 s

/-- WRMSR 0x716 (R181). -/
def execWrmsrCbo1PerfCtr0 (v : Word64) (s : State) : Answer := writeCtr (.cbo .c1) .k0 v s

/-- RDMSR 0x717 (R180). -/
def execRdmsrCbo1PerfCtr1 (s : State) : Answer := readCtr (.cbo .c1) .k1 s

/-- WRMSR 0x717 (R181). -/
def execWrmsrCbo1PerfCtr1 (v : Word64) (s : State) : Answer := writeCtr (.cbo .c1) .k1 v s

/-- RDMSR 0x720 (R174). -/
def execRdmsrCbo2PerfEvtSel0 (s : State) : Answer := readEvtSel (.cbo .c2) .k0 s

/-- WRMSR 0x720 (R175). -/
def execWrmsrCbo2PerfEvtSel0 (v : Word64) (s : State) : Answer := writeEvtSel (.cbo .c2) .k0 v s

/-- RDMSR 0x721 (R174). -/
def execRdmsrCbo2PerfEvtSel1 (s : State) : Answer := readEvtSel (.cbo .c2) .k1 s

/-- WRMSR 0x721 (R175). -/
def execWrmsrCbo2PerfEvtSel1 (v : Word64) (s : State) : Answer := writeEvtSel (.cbo .c2) .k1 v s

/-- RDMSR 0x726 (R180). -/
def execRdmsrCbo2PerfCtr0 (s : State) : Answer := readCtr (.cbo .c2) .k0 s

/-- WRMSR 0x726 (R181). -/
def execWrmsrCbo2PerfCtr0 (v : Word64) (s : State) : Answer := writeCtr (.cbo .c2) .k0 v s

/-- RDMSR 0x727 (R180). -/
def execRdmsrCbo2PerfCtr1 (s : State) : Answer := readCtr (.cbo .c2) .k1 s

/-- WRMSR 0x727 (R181). -/
def execWrmsrCbo2PerfCtr1 (v : Word64) (s : State) : Answer := writeCtr (.cbo .c2) .k1 v s

/-- RDMSR 0x730 (R174). -/
def execRdmsrCbo3PerfEvtSel0 (s : State) : Answer := readEvtSel (.cbo .c3) .k0 s

/-- WRMSR 0x730 (R175). -/
def execWrmsrCbo3PerfEvtSel0 (v : Word64) (s : State) : Answer := writeEvtSel (.cbo .c3) .k0 v s

/-- RDMSR 0x731 (R174). -/
def execRdmsrCbo3PerfEvtSel1 (s : State) : Answer := readEvtSel (.cbo .c3) .k1 s

/-- WRMSR 0x731 (R175). -/
def execWrmsrCbo3PerfEvtSel1 (v : Word64) (s : State) : Answer := writeEvtSel (.cbo .c3) .k1 v s

/-- RDMSR 0x736 (R180). -/
def execRdmsrCbo3PerfCtr0 (s : State) : Answer := readCtr (.cbo .c3) .k0 s

/-- WRMSR 0x736 (R181). -/
def execWrmsrCbo3PerfCtr0 (v : Word64) (s : State) : Answer := writeCtr (.cbo .c3) .k0 v s

/-- RDMSR 0x737 (R180). -/
def execRdmsrCbo3PerfCtr1 (s : State) : Answer := readCtr (.cbo .c3) .k1 s

/-- WRMSR 0x737 (R181). -/
def execWrmsrCbo3PerfCtr1 (v : Word64) (s : State) : Answer := writeCtr (.cbo .c3) .k1 v s

end Sys2Proof.Machine
end

