-- ==== Sys2Proof/Machine/CboConfig.lean ====
section
/-! DEFINITION. MSR_UNC_CBO_CONFIG (42_cbo_arb_counters.md R170, R171). -/

namespace Sys2Proof.Machine

open Sys2Proof

/-- RDMSR 0x396 (R170): NO_CBO_BANKS = N_CBO + 1, a constant of the part. -/
def execRdmsrCboConfig (s : State) : Answer :=
  readMsr cboCfgMask (s.part.noCboBanks.setWidth 64) s

/-- WRMSR 0x396 (R171): the register is read-only; the outcome is a fault for every value, before any check of it
(R291). -/
def execWrmsrCboConfig (_v : Word64) (_s : State) : Answer := .fault .writeToReadOnlyMsr

end Sys2Proof.Machine
end

