-- ==== Sys2Proof/Machine/EventsArb.lean ====
section
/-! DEFINITION. The five ARB events (44_arb_events.md R241 to R245): what one cycle does to the counter that selects the
event (log 1). -/

namespace Sys2Proof.Machine

open Sys2Proof

/-- UNC_ARB_TRK_OCCUPANCY.ALL (R241): one cycle of ARB counter 0, whose increment is the tracker's occupancy; counter
0 only (R113). -/
def execArbTrkOccupancyAll (mode : CountMode) (s : State) : Answer := countEvent .arb .k0 mode s.arbCycle.trkValid s

/-- UNC_ARB_TRK_REQUESTS.ALL (R242): one cycle of the ARB counter, whose increment is the entries allocated in the
cycle. -/
def execArbTrkRequestsAll (j : CtrIdx) (mode : CountMode) (s : State) : Answer :=
  countEvent .arb j mode (allocCount s.arbCycle) s

/-- UNC_ARB_TRK_REQUESTS.WRITES (R243): one cycle of the ARB counter, whose increment is the writes allocated in the
cycle. -/
def execArbTrkRequestsWrites (j : CtrIdx) (mode : CountMode) (s : State) : Answer :=
  countEvent .arb j mode (writeAllocCount s.arbCycle) s

/-- UNC_ARB_COH_TRK_REQUESTS.ALL (R244): one cycle of the ARB counter, whose increment is the entries allocated in the
coherence tracker. -/
def execArbCohTrkRequestsAll (j : CtrIdx) (mode : CountMode) (s : State) : Answer :=
  countEvent .arb j mode s.arbCycle.cohTrkAlloc s

/-- UNC_ARB_TRK_OCCUPANCY.CYCLES_WITH_ANY_REQUEST (R245): one cycle of ARB counter 0, whose increment is the same
increment as TRK_OCCUPANCY.ALL, used with THR = 1; counter 0 only (R113). -/
def execArbTrkOccupancyCyclesWithAnyRequest (mode : CountMode) (s : State) : Answer :=
  countEvent .arb .k0 mode s.arbCycle.trkValid s

end Sys2Proof.Machine
end

