-- ==== Sys2Proof/Machine/EventsCbo.lean ====
section
/-! DEFINITION. The fourteen CBo events (43_cbo_events.md R213 to R227): what one cycle does to the counter
that selects the event (log 1). -/

namespace Sys2Proof.Machine

open Sys2Proof

/-- UNC_CBO_XSNP_RESPONSE.MISS_XCORE (R213): one cycle of counter (CBO_i, j), whose increment is the number of cross-
core snoops for a core request that miss. -/
def execXsnpResponseMissXcore (i : CboIdx) (j : CtrIdx) (mode : CountMode) (s : State) : Answer :=
  countEvent (.cbo i) j mode (snoopCount .xcore .miss s.cboCycle) s

/-- UNC_CBO_XSNP_RESPONSE.MISS_EVICTION (R214): one cycle of counter (CBO_i, j), whose increment is the number of
snoops for an LLC eviction that miss. -/
def execXsnpResponseMissEviction (i : CboIdx) (j : CtrIdx) (mode : CountMode) (s : State) : Answer :=
  countEvent (.cbo i) j mode (snoopCount .eviction .miss s.cboCycle) s

/-- UNC_CBO_XSNP_RESPONSE.HIT_XCORE (R215): one cycle of counter (CBO_i, j), whose increment is the number of cross-
core snoops for a core request that hit a non-modified line. -/
def execXsnpResponseHitXcore (i : CboIdx) (j : CtrIdx) (mode : CountMode) (s : State) : Answer :=
  countEvent (.cbo i) j mode (snoopCount .xcore .hit s.cboCycle) s

/-- UNC_CBO_XSNP_RESPONSE.HITM_XCORE (R216): one cycle of counter (CBO_i, j), whose increment is the number of cross-
core snoops for a core request that hit a modified line. -/
def execXsnpResponseHitmXcore (i : CboIdx) (j : CtrIdx) (mode : CountMode) (s : State) : Answer :=
  countEvent (.cbo i) j mode (snoopCount .xcore .hitm s.cboCycle) s

/-- UNC_CBO_CACHE_LOOKUP.WRITE_M (R218): one cycle of counter (CBO_i, j), whose increment is the number of lookups of
the selected kind and state. -/
def execCacheLookupWriteM (i : CboIdx) (j : CtrIdx) (mode : CountMode) (s : State) : Answer :=
  countEvent (.cbo i) j mode (lookupCount .write [.m] s.cboCycle) s

/-- UNC_CBO_CACHE_LOOKUP.ANY_M (R219): one cycle of counter (CBO_i, j), whose increment is the number of lookups of
the selected kind and state. -/
def execCacheLookupAnyM (i : CboIdx) (j : CtrIdx) (mode : CountMode) (s : State) : Answer :=
  countEvent (.cbo i) j mode (lookupCount .any [.m] s.cboCycle) s

/-- UNC_CBO_CACHE_LOOKUP.READ_I (R220): one cycle of counter (CBO_i, j), whose increment is the number of lookups of
the selected kind and state. -/
def execCacheLookupReadI (i : CboIdx) (j : CtrIdx) (mode : CountMode) (s : State) : Answer :=
  countEvent (.cbo i) j mode (lookupCount .read [.i] s.cboCycle) s

/-- UNC_CBO_CACHE_LOOKUP.ANY_I (R221): one cycle of counter (CBO_i, j), whose increment is the number of lookups of
the selected kind and state. -/
def execCacheLookupAnyI (i : CboIdx) (j : CtrIdx) (mode : CountMode) (s : State) : Answer :=
  countEvent (.cbo i) j mode (lookupCount .any [.i] s.cboCycle) s

/-- UNC_CBO_CACHE_LOOKUP.READ_MESI (R222): one cycle of counter (CBO_i, j), whose increment is the number of lookups
of the selected kind and state. -/
def execCacheLookupReadMesi (i : CboIdx) (j : CtrIdx) (mode : CountMode) (s : State) : Answer :=
  countEvent (.cbo i) j mode (lookupCount .read [.m, .e, .s, .i] s.cboCycle) s

/-- UNC_CBO_CACHE_LOOKUP.WRITE_MESI (R223): one cycle of counter (CBO_i, j), whose increment is the number of lookups
of the selected kind and state. -/
def execCacheLookupWriteMesi (i : CboIdx) (j : CtrIdx) (mode : CountMode) (s : State) : Answer :=
  countEvent (.cbo i) j mode (lookupCount .write [.m, .e, .s, .i] s.cboCycle) s

/-- UNC_CBO_CACHE_LOOKUP.ANY_MESI (R224): one cycle of counter (CBO_i, j), whose increment is the number of lookups of
the selected kind and state. -/
def execCacheLookupAnyMesi (i : CboIdx) (j : CtrIdx) (mode : CountMode) (s : State) : Answer :=
  countEvent (.cbo i) j mode (lookupCount .any [.m, .e, .s, .i] s.cboCycle) s

/-- UNC_CBO_CACHE_LOOKUP.ANY_ES (R225): one cycle of counter (CBO_i, j), whose increment is the number of lookups of
the selected kind and state. -/
def execCacheLookupAnyEs (i : CboIdx) (j : CtrIdx) (mode : CountMode) (s : State) : Answer :=
  countEvent (.cbo i) j mode (lookupCount .any [.e, .s] s.cboCycle) s

/-- UNC_CBO_CACHE_LOOKUP.READ_ES (R226): one cycle of counter (CBO_i, j), whose increment is the number of lookups of
the selected kind and state. -/
def execCacheLookupReadEs (i : CboIdx) (j : CtrIdx) (mode : CountMode) (s : State) : Answer :=
  countEvent (.cbo i) j mode (lookupCount .read [.e, .s] s.cboCycle) s

/-- UNC_CBO_CACHE_LOOKUP.WRITE_ES (R227): one cycle of counter (CBO_i, j), whose increment is the number of lookups of
the selected kind and state. -/
def execCacheLookupWriteEs (i : CboIdx) (j : CtrIdx) (mode : CountMode) (s : State) : Answer :=
  countEvent (.cbo i) j mode (lookupCount .write [.e, .s] s.cboCycle) s

end Sys2Proof.Machine
end

