-- ==== Sys2Proof/Machine/Fixed.lean ====
section
/-! DEFINITION. The fixed counter's registers and its event (41_fixed_counter.md, 44_arb_events.md R246). -/

namespace Sys2Proof.Machine

open Sys2Proof

/-- RDMSR 0x394 (R150). -/
def execRdmsrFixedCtrl (s : State) : Answer := readMsr fctrlMask s.pmu.fctrl.pack s

/-- WRMSR 0x394 (R151): the counter value is not touched. -/
def execWrmsrFixedCtrl (v : Word64) (s : State) : Answer :=
  writeMsr fctrlMask v s { s.pmu with fctrl := FixedCtrl.unpack v }

/-- RDMSR 0x395 (R156): bits 47:0 are the count. -/
def execRdmsrFixedCtr (s : State) : Answer := readMsr ctr48Mask (s.pmu.fctr.setWidth 64) s

/-- WRMSR 0x395 (R157): no status bit and no PMI request, whatever value is written. -/
def execWrmsrFixedCtr (v : Word64) (s : State) : Answer :=
  writeMsr ctr48Mask v s { s.pmu with fctr := v.setWidth 48 }

/-- UNC_CLOCK.SOCKET (R246): one UCLK cycle of the fixed counter, which nothing is programmed to select (R158, R159).
-/
def execClockSocket (s : State) : Answer := .next (countFixed s)

end Sys2Proof.Machine
end

