-- ==== Sys2Proof/Machine/Global.lean ====
section
/-! DEFINITION. The global control and status registers (40_global_registers.md). -/

namespace Sys2Proof.Machine

open Sys2Proof

/-- RDMSR 0xE01 (R130): the seven fields and free reserved bits. -/
def execRdmsrGlobalCtrl (s : State) : Answer := readMsr gctrlMask s.pmu.gctrl.pack s

/-- WRMSR 0xE01 (R131): all seven fields are written at once, and nothing else. -/
def execWrmsrGlobalCtrl (v : Word64) (s : State) : Answer :=
  writeMsr gctrlMask v s { s.pmu with gctrl := GlobalCtrl.unpack v }

/-- RDMSR 0xE02 (R136): the three status bits; the read clears none. -/
def execRdmsrGlobalStatus (s : State) : Answer := readMsr gstatMask s.pmu.gstat.pack s

/-- WRMSR 0xE02 (R137): write 1 to clear; nothing else changes. -/
def execWrmsrGlobalStatus (v : Word64) (s : State) : Answer :=
  writeMsr gstatMask v s { s.pmu with gstat := s.pmu.gstat.clearBits v }

end Sys2Proof.Machine
end

