-- ==== Sys2Proof/Machine/Imc.lean ====
section
/-! DEFINITION. The IMC counters' reads and the base address's halves (45_imc_counters.md R266, R268). -/

namespace Sys2Proof.Machine

open Sys2Proof

/-- MMIO_RD32 of DRAM_GT_REQUESTS (R266, R271). -/
def execMmioRd32DramGtRequests (s : State) : Answer := readImc .gtRequests s

/-- MMIO_RD32 of DRAM_IA_REQUESTS (R266, R272). -/
def execMmioRd32DramIaRequests (s : State) : Answer := readImc .iaRequests s

/-- MMIO_RD32 of DRAM_IO_REQUESTS (R266, R273). -/
def execMmioRd32DramIoRequests (s : State) : Answer := readImc .ioRequests s

/-- MMIO_RD32 of DRAM_DATA_READS (R266, R274). -/
def execMmioRd32DramDataReads (s : State) : Answer := readImc .dataReads s

/-- MMIO_RD32 of DRAM_DATA_WRITES (R266, R275). -/
def execMmioRd32DramDataWrites (s : State) : Answer := readImc .dataWrites s

/-- CFG_RD32 0:0.0 0x48 (R268): the low half of cfg48. -/
def execCfgRd32Lo (s : State) : Answer := read32 (s.part.cfg48.extractLsb' 0 32) s

/-- CFG_RD32 0:0.0 0x4C (R268): the high half of cfg48. -/
def execCfgRd32Hi (s : State) : Answer := read32 (s.part.cfg48.extractLsb' 32 32) s

end Sys2Proof.Machine
end

