-- ==== Sys2Proof/Machine/Rdpmc.lean ====
section
/-! DEFINITION. RDPMC (30_encoding.md R103). -/

namespace Sys2Proof.Machine

open Sys2Proof

/-- RDPMC (R103): no index has a stated meaning, so every index is refused. -/
def execRdpmc (_index : Word32) (_s : State) : Answer := .refused .rdpmcIndexNotInSource

end Sys2Proof.Machine
end

