-- ==== Sys2Proof/Machine/Dispatch.lean ====
section
/-! DEFINITION. One arm for each instruction, in the order of spec/opcode_table.json. -/

namespace Sys2Proof.Machine

open Sys2Proof

def exec (i : Instr) (s : State) : Host.Outcome State Fault Refusal :=
  match i with
  | .rdmsrGlobalCtrl => Sys2Proof.Machine.execRdmsrGlobalCtrl s
  | .wrmsrGlobalCtrl v => Sys2Proof.Machine.execWrmsrGlobalCtrl v s
  | .rdmsrGlobalStatus => Sys2Proof.Machine.execRdmsrGlobalStatus s
  | .wrmsrGlobalStatus v => Sys2Proof.Machine.execWrmsrGlobalStatus v s
  | .rdmsrFixedCtrl => Sys2Proof.Machine.execRdmsrFixedCtrl s
  | .wrmsrFixedCtrl v => Sys2Proof.Machine.execWrmsrFixedCtrl v s
  | .rdmsrFixedCtr => Sys2Proof.Machine.execRdmsrFixedCtr s
  | .wrmsrFixedCtr v => Sys2Proof.Machine.execWrmsrFixedCtr v s
  | .rdmsrCboConfig => Sys2Proof.Machine.execRdmsrCboConfig s
  | .wrmsrCboConfig v => Sys2Proof.Machine.execWrmsrCboConfig v s
  | .rdmsrArbPerfCtr0 => Sys2Proof.Machine.execRdmsrArbPerfCtr0 s
  | .wrmsrArbPerfCtr0 v => Sys2Proof.Machine.execWrmsrArbPerfCtr0 v s
  | .rdmsrArbPerfCtr1 => Sys2Proof.Machine.execRdmsrArbPerfCtr1 s
  | .wrmsrArbPerfCtr1 v => Sys2Proof.Machine.execWrmsrArbPerfCtr1 v s
  | .rdmsrArbPerfEvtSel0 => Sys2Proof.Machine.execRdmsrArbPerfEvtSel0 s
  | .wrmsrArbPerfEvtSel0 v => Sys2Proof.Machine.execWrmsrArbPerfEvtSel0 v s
  | .rdmsrArbPerfEvtSel1 => Sys2Proof.Machine.execRdmsrArbPerfEvtSel1 s
  | .wrmsrArbPerfEvtSel1 v => Sys2Proof.Machine.execWrmsrArbPerfEvtSel1 v s
  | .rdmsrCbo0PerfEvtSel0 => Sys2Proof.Machine.execRdmsrCbo0PerfEvtSel0 s
  | .wrmsrCbo0PerfEvtSel0 v => Sys2Proof.Machine.execWrmsrCbo0PerfEvtSel0 v s
  | .rdmsrCbo0PerfEvtSel1 => Sys2Proof.Machine.execRdmsrCbo0PerfEvtSel1 s
  | .wrmsrCbo0PerfEvtSel1 v => Sys2Proof.Machine.execWrmsrCbo0PerfEvtSel1 v s
  | .rdmsrCbo0PerfCtr0 => Sys2Proof.Machine.execRdmsrCbo0PerfCtr0 s
  | .wrmsrCbo0PerfCtr0 v => Sys2Proof.Machine.execWrmsrCbo0PerfCtr0 v s
  | .rdmsrCbo0PerfCtr1 => Sys2Proof.Machine.execRdmsrCbo0PerfCtr1 s
  | .wrmsrCbo0PerfCtr1 v => Sys2Proof.Machine.execWrmsrCbo0PerfCtr1 v s
  | .rdmsrCbo1PerfEvtSel0 => Sys2Proof.Machine.execRdmsrCbo1PerfEvtSel0 s
  | .wrmsrCbo1PerfEvtSel0 v => Sys2Proof.Machine.execWrmsrCbo1PerfEvtSel0 v s
  | .rdmsrCbo1PerfEvtSel1 => Sys2Proof.Machine.execRdmsrCbo1PerfEvtSel1 s
  | .wrmsrCbo1PerfEvtSel1 v => Sys2Proof.Machine.execWrmsrCbo1PerfEvtSel1 v s
  | .rdmsrCbo1PerfCtr0 => Sys2Proof.Machine.execRdmsrCbo1PerfCtr0 s
  | .wrmsrCbo1PerfCtr0 v => Sys2Proof.Machine.execWrmsrCbo1PerfCtr0 v s
  | .rdmsrCbo1PerfCtr1 => Sys2Proof.Machine.execRdmsrCbo1PerfCtr1 s
  | .wrmsrCbo1PerfCtr1 v => Sys2Proof.Machine.execWrmsrCbo1PerfCtr1 v s
  | .rdmsrCbo2PerfEvtSel0 => Sys2Proof.Machine.execRdmsrCbo2PerfEvtSel0 s
  | .wrmsrCbo2PerfEvtSel0 v => Sys2Proof.Machine.execWrmsrCbo2PerfEvtSel0 v s
  | .rdmsrCbo2PerfEvtSel1 => Sys2Proof.Machine.execRdmsrCbo2PerfEvtSel1 s
  | .wrmsrCbo2PerfEvtSel1 v => Sys2Proof.Machine.execWrmsrCbo2PerfEvtSel1 v s
  | .rdmsrCbo2PerfCtr0 => Sys2Proof.Machine.execRdmsrCbo2PerfCtr0 s
  | .wrmsrCbo2PerfCtr0 v => Sys2Proof.Machine.execWrmsrCbo2PerfCtr0 v s
  | .rdmsrCbo2PerfCtr1 => Sys2Proof.Machine.execRdmsrCbo2PerfCtr1 s
  | .wrmsrCbo2PerfCtr1 v => Sys2Proof.Machine.execWrmsrCbo2PerfCtr1 v s
  | .rdmsrCbo3PerfEvtSel0 => Sys2Proof.Machine.execRdmsrCbo3PerfEvtSel0 s
  | .wrmsrCbo3PerfEvtSel0 v => Sys2Proof.Machine.execWrmsrCbo3PerfEvtSel0 v s
  | .rdmsrCbo3PerfEvtSel1 => Sys2Proof.Machine.execRdmsrCbo3PerfEvtSel1 s
  | .wrmsrCbo3PerfEvtSel1 v => Sys2Proof.Machine.execWrmsrCbo3PerfEvtSel1 v s
  | .rdmsrCbo3PerfCtr0 => Sys2Proof.Machine.execRdmsrCbo3PerfCtr0 s
  | .wrmsrCbo3PerfCtr0 v => Sys2Proof.Machine.execWrmsrCbo3PerfCtr0 v s
  | .rdmsrCbo3PerfCtr1 => Sys2Proof.Machine.execRdmsrCbo3PerfCtr1 s
  | .wrmsrCbo3PerfCtr1 v => Sys2Proof.Machine.execWrmsrCbo3PerfCtr1 v s
  | .rdpmc index => Sys2Proof.Machine.execRdpmc index s
  | .mmioRd32DramGtRequests => Sys2Proof.Machine.execMmioRd32DramGtRequests s
  | .mmioRd32DramIaRequests => Sys2Proof.Machine.execMmioRd32DramIaRequests s
  | .mmioRd32DramIoRequests => Sys2Proof.Machine.execMmioRd32DramIoRequests s
  | .mmioRd32DramDataReads => Sys2Proof.Machine.execMmioRd32DramDataReads s
  | .mmioRd32DramDataWrites => Sys2Proof.Machine.execMmioRd32DramDataWrites s
  | .cfgRd32Lo => Sys2Proof.Machine.execCfgRd32Lo s
  | .cfgRd32Hi => Sys2Proof.Machine.execCfgRd32Hi s
  | .xsnpResponseMissXcore c j m => Sys2Proof.Machine.execXsnpResponseMissXcore c j m s
  | .xsnpResponseMissEviction c j m => Sys2Proof.Machine.execXsnpResponseMissEviction c j m s
  | .xsnpResponseHitXcore c j m => Sys2Proof.Machine.execXsnpResponseHitXcore c j m s
  | .xsnpResponseHitmXcore c j m => Sys2Proof.Machine.execXsnpResponseHitmXcore c j m s
  | .cacheLookupWriteM c j m => Sys2Proof.Machine.execCacheLookupWriteM c j m s
  | .cacheLookupAnyM c j m => Sys2Proof.Machine.execCacheLookupAnyM c j m s
  | .cacheLookupReadI c j m => Sys2Proof.Machine.execCacheLookupReadI c j m s
  | .cacheLookupAnyI c j m => Sys2Proof.Machine.execCacheLookupAnyI c j m s
  | .cacheLookupReadMesi c j m => Sys2Proof.Machine.execCacheLookupReadMesi c j m s
  | .cacheLookupWriteMesi c j m => Sys2Proof.Machine.execCacheLookupWriteMesi c j m s
  | .cacheLookupAnyMesi c j m => Sys2Proof.Machine.execCacheLookupAnyMesi c j m s
  | .cacheLookupAnyEs c j m => Sys2Proof.Machine.execCacheLookupAnyEs c j m s
  | .cacheLookupReadEs c j m => Sys2Proof.Machine.execCacheLookupReadEs c j m s
  | .cacheLookupWriteEs c j m => Sys2Proof.Machine.execCacheLookupWriteEs c j m s
  | .arbTrkOccupancyAll m => Sys2Proof.Machine.execArbTrkOccupancyAll m s
  | .arbTrkRequestsAll j m => Sys2Proof.Machine.execArbTrkRequestsAll j m s
  | .arbTrkRequestsWrites j m => Sys2Proof.Machine.execArbTrkRequestsWrites j m s
  | .arbCohTrkRequestsAll j m => Sys2Proof.Machine.execArbCohTrkRequestsAll j m s
  | .arbTrkOccupancyCyclesWithAnyRequest m => Sys2Proof.Machine.execArbTrkOccupancyCyclesWithAnyRequest m s
  | .clockSocket => Sys2Proof.Machine.execClockSocket s

end Sys2Proof.Machine
end

