-- ==== Sys2Proof/Machine/Agents.lean ====
section
/-! DEFINITION. The steps of the agents (00_scope.md R10): software's access operations run the decoded instruction;
a tick runs the event selections that stand in the two event-select registers of its unit. Each is one atomic step
(20_memory.md R83, R87). -/

namespace Sys2Proof.Machine

open Sys2Proof

/-- The agent has this step only where the condition holds (log 16). -/
def ifEnabled (b : Bool) (a : Answer) : Answer := if b then a else .refused .agentNotEnabled

/-- Core `n` can issue an operation: it is one of the part's cores and awake (R10, R312). -/
def State.canIssue (s : State) (n : CoreIdx) : Bool := s.part.hasCore n && !s.pmu.asleep.mem n

/-- The part of a cycle that belongs to counter (u, j) (R190, R191): the event selection that stands in `sel(u, j)` is
executed; where none stands there, the counter's increment is a draw (R114, log 13). -/
def tickCounter (u : UnitId) (j : CtrIdx) (s : State) : Answer :=
  match decodeEvent u j (s.pmu.slot u j).sel with
  | some i => exec i s
  | none => countEvent u j (s.pmu.slot u j).sel.mode (s.part.freeInc s.draws) s.drawn

/-- `tick u` (R190): both counters of the unit see the same cycle (log 20). -/
def tickUnit (u : UnitId) (s : State) : Answer :=
  match tickCounter u .k0 s with
  | .next t => tickCounter u .k1 t
  | .fault r => .fault r
  | .refused r => .refused r

/-- An access operation of core `n` whose record is `bytes` (R10, R100). -/
def runAccess (n : CoreIdx) (bytes : List Byte) (s : State) : Answer :=
  ifEnabled (s.canIssue n)
    (match decode s.part.imcBar .record bytes with
    | .ok i => exec i { s with issuer := n }
    | .error r => .refused (.rejected r))

/-- One step of one agent (R10). -/
def runAction (a : Action) (s : State) : Answer :=
  match a with
  | .access n bytes => runAccess n bytes s
  | .tickFixed => exec .clockSocket s
  | .tickArb cycle => ifEnabled (s.part.admitsArb cycle) (tickUnit .arb { s with arbCycle := cycle })
  | .tickCbo i cycle =>
    ifEnabled (s.part.hasUnit (.cbo i) && s.part.admitsCbo cycle) (tickUnit (.cbo i) { s with cboCycle := cycle })
  | .imc c => .next (countImc c s)
  | .pmi => ifEnabled s.pmu.pmiPending (.next (deliverPmi s))
  | .sleep n => ifEnabled (s.part.hasCore n) (.next (s.withPmu { s.pmu with asleep := s.pmu.asleep.put n true }))
  | .wake n => ifEnabled (s.part.hasCore n) (.next (s.withPmu { s.pmu with asleep := s.pmu.asleep.put n false }))

/-- The next agent step of the schedule is taken; where the schedule says nothing, a free one (log 2). -/
def runSchedule (s : State) : Answer :=
  match s.schedule with
  | a :: rest => runAction a { s with schedule := rest }
  | [] => runAction (Config.freeAction s.draws) s.drawn

/-- `s` with a table word placed where the next step fetches it (log 2, log 9): an operation record at the head of the
schedule, issued by core 0, which is awake; an event selection in `sel(u, j)` with a cycle of its unit next; the fixed
counter's label with a cycle of it next. -/
def placeWord (s : State) (n : Nat) : State :=
  match tableReading s.part.imcBar n with
  | some (.record, bytes) =>
    { s with
      schedule := .access .p0 bytes :: s.schedule
      pmu := { s.pmu with asleep := s.pmu.asleep.put .p0 false } }
  | some (.slot u j, _) =>
    { s with
      schedule := (match u with
        | .arb => .tickArb s.arbCycle
        | .cbo i => .tickCbo i s.cboCycle) :: s.schedule
      pmu := s.pmu.putSlot u j { s.pmu.slot u j with sel := EvtSel.unpack (BitVec.ofNat 64 n) } }
  | some (.fixed, _) => { s with schedule := .tickFixed :: s.schedule }
  | none => s

end Sys2Proof.Machine
end

