-- ==== Sys2Proof/Machine/Step.lean ====
section
/-! DEFINITION. One step of the machine: one step of the agent that the schedule names (00_scope.md R10). -/

namespace Sys2Proof.Machine

open Sys2Proof

/-- One step of the machine (R10, R87). -/
def step (s : State) : Host.Outcome State Fault Refusal := runSchedule s

/-- `s` with an instruction of the table placed where the next step fetches it (log 2, log 9). -/
def State.withFetchWord (s : State) (nbits w : Nat) : State := placeWord s (w % 2 ^ nbits)

end Sys2Proof.Machine
end

