-- ==== Sys2Proof/Safety.lean ====
section
/-! DEFINITION. The terms in which claims speak of the machine: what a step does next, the invariant, the shape of a
read and of a write, and the effect of a counting cycle, written from the rules and not from the machine's text. -/

namespace Sys2Proof.Machine

open Sys2Proof

/-! ### Steps -/

/-- The agent step that the next step of the machine takes (R10, log 2). -/
def State.nextAction (s : State) : Action :=
  match s.schedule with
  | a :: _ => a
  | [] => Config.freeAction s.draws

/-- `k` steps of the machine, stopping at the first fault or refusal (`Host.Core.run` of this machine). -/
def runSteps : Nat → State → Answer
  | 0, s => .next s
  | k + 1, s =>
    match step s with
    | .next t => runSteps k t
    | .fault r => .fault r
    | .refused r => .refused r

/-- The next step is an access operation that decodes to `i`. -/
def State.issues (s : State) (i : Instr) : Prop :=
  ∃ n bytes, s.nextAction = .access n bytes ∧ decode s.part.imcBar .record bytes = .ok i

/-- The next step is an access operation, whatever it decodes to. -/
def State.issuesAccess (s : State) : Prop := ∃ n bytes, s.nextAction = .access n bytes

/-- In the next step core `n`, one of the part's and awake, issues the operation `a` (R10, R100); `rest` comes after. -/
def State.comes (s : State) (n : CoreIdx) (a : Access) (rest : List Action) : Prop :=
  s.part.hasCore n = true ∧ s.pmu.asleep.mem n = false ∧ s.schedule = .access n a.encode :: rest

/-- A read operation answers `ok(v)` (R13) for the number `v`: the issuing core receives it, nothing else changes. -/
def Returns (v : Nat) (s : State) (o : Answer) : Prop :=
  ∃ w : Word64, w.toNat = v ∧ o = .next { s with results := s.results.put s.issuer w }

/-- The tick of a unit with the record of its cycle; of the two records only the unit's own is used. -/
def tickOf (u : UnitId) (c : CboCycle) (a : ArbCycle) : Action :=
  match u with
  | .arb => .tickArb a
  | .cbo i => .tickCbo i c

/-- The invariant: only cores of the part sleep (R46), and only cores of the part were ever sent a PMI (R27, R301). -/
def State.Inv (s : State) : Prop :=
  (∀ n, s.pmu.asleep.mem n = true → s.part.hasCore n = true) ∧ ∀ n ∈ s.delivered, s.part.hasCore n = true

/-! ### Reads and writes -/

/-- A read returns `ok(v)` (R13) for a `v` with the defined fields `fields`, whose reserved bits are any value, or 0
under RESERVED_READ = zero (R119); nothing else changes but the count of draws. -/
def Reads (fields : Word64 → Prop) (reserved : Word64) (s : State) (o : Answer) : Prop :=
  ∃ v, fields v ∧ (s.part.reservedRead = .zero → v &&& reserved = 0#64) ∧
    o = .next { s with results := s.results.put s.issuer v, draws := s.draws + 1 }

/-- A write of `v` gives the state `t`; where `v` has a 1 in a reserved bit, what RESERVED_WRITE says (R118). -/
def Writes (reserved v : Word64) (s t : State) (o : Answer) : Prop :=
  (v &&& reserved = 0#64 → o = .next t) ∧
  (v &&& reserved ≠ 0#64 →
    (s.part.reservedWrite = .refuse → o = .refused .reservedBitSet) ∧
    (s.part.reservedWrite = .fault → o = .fault .reservedBitSet) ∧
    (s.part.reservedWrite = .ignore → o = .next t))

/-- `v` holds the fields of an event-select register, each in its place (R34, R107). -/
def SelFields (x : EvtSel) (v : Word64) : Prop :=
  v.extractLsb' 24 5 = x.mode.thr ∧ v.getLsbD 23 = x.mode.inv ∧ v.getLsbD 22 = x.mode.en ∧
    v.getLsbD 20 = x.mode.ovfEn ∧ v.getLsbD 18 = x.mode.edge ∧ v.extractLsb' 8 8 = x.umask ∧
    v.extractLsb' 0 8 = x.evt

/-- The reserved bits of a register's value (R107; R131, R137, R151, R157, R175, R181). -/
def reservedOf : Msr → Word64
  | .globalCtrl => 0xFFFFFFFF1FFFFFF0#64
  | .globalStatus => 0xFFFFFFFFFFFFFFF4#64
  | .fixedCtrl => 0xFFFFFFFFFFAFFFFF#64
  | .fixedCtr => 0xFFFF000000000000#64
  | .cboConfig => 0xFFFFFFFFFFFFFFF0#64
  | .perfEvtSel _ _ => 0xFFFFFFFFE02B0000#64
  | .perfCtr _ _ => 0xFFFFF00000000000#64

/-- The register exists on the part (R22, R75). -/
def presentOn (p : Part) : Msr → Bool
  | .perfEvtSel u _ => p.hasUnit u
  | .perfCtr u _ => p.hasUnit u
  | _ => true

/-! ### The register rows of the opcode table, unit by unit (R106) -/

/-- The event-select registers of the CBos: CBo, index, address, read row, write row. -/
def cboSelRows : List (CboIdx × CtrIdx × Word32 × Instr × (Word64 → Instr)) :=
  [(.c0, .k0, 0x700#32, .rdmsrCbo0PerfEvtSel0, .wrmsrCbo0PerfEvtSel0),
    (.c0, .k1, 0x701#32, .rdmsrCbo0PerfEvtSel1, .wrmsrCbo0PerfEvtSel1),
    (.c1, .k0, 0x710#32, .rdmsrCbo1PerfEvtSel0, .wrmsrCbo1PerfEvtSel0),
    (.c1, .k1, 0x711#32, .rdmsrCbo1PerfEvtSel1, .wrmsrCbo1PerfEvtSel1),
    (.c2, .k0, 0x720#32, .rdmsrCbo2PerfEvtSel0, .wrmsrCbo2PerfEvtSel0),
    (.c2, .k1, 0x721#32, .rdmsrCbo2PerfEvtSel1, .wrmsrCbo2PerfEvtSel1),
    (.c3, .k0, 0x730#32, .rdmsrCbo3PerfEvtSel0, .wrmsrCbo3PerfEvtSel0),
    (.c3, .k1, 0x731#32, .rdmsrCbo3PerfEvtSel1, .wrmsrCbo3PerfEvtSel1)]

/-- The counter registers of the CBos: CBo, index, address, read row, write row. -/
def cboCtrRows : List (CboIdx × CtrIdx × Word32 × Instr × (Word64 → Instr)) :=
  [(.c0, .k0, 0x706#32, .rdmsrCbo0PerfCtr0, .wrmsrCbo0PerfCtr0),
    (.c0, .k1, 0x707#32, .rdmsrCbo0PerfCtr1, .wrmsrCbo0PerfCtr1),
    (.c1, .k0, 0x716#32, .rdmsrCbo1PerfCtr0, .wrmsrCbo1PerfCtr0),
    (.c1, .k1, 0x717#32, .rdmsrCbo1PerfCtr1, .wrmsrCbo1PerfCtr1),
    (.c2, .k0, 0x726#32, .rdmsrCbo2PerfCtr0, .wrmsrCbo2PerfCtr0),
    (.c2, .k1, 0x727#32, .rdmsrCbo2PerfCtr1, .wrmsrCbo2PerfCtr1),
    (.c3, .k0, 0x736#32, .rdmsrCbo3PerfCtr0, .wrmsrCbo3PerfCtr0),
    (.c3, .k1, 0x737#32, .rdmsrCbo3PerfCtr1, .wrmsrCbo3PerfCtr1)]

/-- The event-select registers of the ARB: index, address, read row, write row. -/
def arbSelRows : List (CtrIdx × Word32 × Instr × (Word64 → Instr)) :=
  [(.k0, 0x3B2#32, .rdmsrArbPerfEvtSel0, .wrmsrArbPerfEvtSel0),
    (.k1, 0x3B3#32, .rdmsrArbPerfEvtSel1, .wrmsrArbPerfEvtSel1)]

/-- The counter registers of the ARB: index, address, read row, write row. -/
def arbCtrRows : List (CtrIdx × Word32 × Instr × (Word64 → Instr)) :=
  [(.k0, 0x3B0#32, .rdmsrArbPerfCtr0, .wrmsrArbPerfCtr0),
    (.k1, 0x3B1#32, .rdmsrArbPerfCtr1, .wrmsrArbPerfCtr1)]

/-- The five registers outside the units: address, read row, write row. -/
def globalRows : List (Word32 × Instr × (Word64 → Instr)) :=
  [(0xE01#32, .rdmsrGlobalCtrl, .wrmsrGlobalCtrl),
    (0xE02#32, .rdmsrGlobalStatus, .wrmsrGlobalStatus),
    (0x394#32, .rdmsrFixedCtrl, .wrmsrFixedCtrl),
    (0x395#32, .rdmsrFixedCtr, .wrmsrFixedCtr),
    (0x396#32, .rdmsrCboConfig, .wrmsrCboConfig)]

/-- The whole address map (R72, R106): address, read row, write row. -/
def msrRows : List (Word32 × Instr × (Word64 → Instr)) :=
  globalRows ++ arbCtrRows.map (fun r => r.2) ++ arbSelRows.map (fun r => r.2) ++ cboSelRows.map (fun r => r.2.2)
    ++ cboCtrRows.map (fun r => r.2.2)

/-- The IMC counters' reads: counter, offset from IMC_BAR, read row (R263, R266). -/
def imcRows : List (ImcCtr × Nat × Instr) :=
  [(.gtRequests, 0x5040, .mmioRd32DramGtRequests),
    (.iaRequests, 0x5044, .mmioRd32DramIaRequests),
    (.ioRequests, 0x5048, .mmioRd32DramIoRequests),
    (.dataReads, 0x5050, .mmioRd32DramDataReads),
    (.dataWrites, 0x5054, .mmioRd32DramDataWrites)]

/-- The byte range `[p, p + n)` has a byte of one of the five counters' words in it (R80). -/
def OverlapsImc (bar p n : Nat) : Prop :=
  ∃ r ∈ imcRows, ∃ a, p ≤ a ∧ a < p + n ∧ bar + r.2.1 ≤ a ∧ a < bar + r.2.1 + 4

/-- The five words of the IMC lie within the 64-bit addresses of an operation record (log 8). They do on every part with
the printed mask, whose base is below 2^43 (R262). -/
def WindowFits (bar : Nat) : Prop := bar + 0x5058 ≤ 2 ^ 64

/-- The operands fit the fields of an operation record (log 8). -/
def Fits : Access → Prop
  | .memRead p n => p < 2 ^ 64 ∧ n < 2 ^ 32
  | .memWrite p n => p < 2 ^ 64 ∧ n < 2 ^ 32
  | _ => True

/-! ### The event increments (R191, R210 to R227, R240 to R245) -/

/-- The CBo rows: (EVT_SEL, UMASK) and the increment that the row's rule computes from the record. -/
def cboIncrements (c : CboCycle) : List ((BitVec 8 × BitVec 8) × Nat) :=
  [((0x22#8, 0x41#8), c.snoops.countP fun x => x.cause == .xcore && x.resp == .miss),
    ((0x22#8, 0x81#8), c.snoops.countP fun x => x.cause == .eviction && x.resp == .miss),
    ((0x22#8, 0x44#8), c.snoops.countP fun x => x.cause == .xcore && x.resp == .hit),
    ((0x22#8, 0x48#8), c.snoops.countP fun x => x.cause == .xcore && x.resp == .hitm),
    ((0x34#8, 0x21#8), c.lookups.countP fun l => l.req == .write && l.state == .m),
    ((0x34#8, 0x81#8), c.lookups.countP fun l => l.state == .m),
    ((0x34#8, 0x18#8), c.lookups.countP fun l => l.req == .read && l.state == .i),
    ((0x34#8, 0x88#8), c.lookups.countP fun l => l.state == .i),
    ((0x34#8, 0x1F#8), c.lookups.countP fun l => l.req == .read),
    ((0x34#8, 0x2F#8), c.lookups.countP fun l => l.req == .write),
    ((0x34#8, 0x8F#8), c.lookups.length),
    ((0x34#8, 0x86#8), c.lookups.countP fun l => l.state == .e || l.state == .s),
    ((0x34#8, 0x16#8), c.lookups.countP fun l => l.req == .read && (l.state == .e || l.state == .s)),
    ((0x34#8, 0x26#8), c.lookups.countP fun l => l.req == .write && (l.state == .e || l.state == .s))]

/-- The ARB rows valid on counter 0 or 1. -/
def arbIncrements (a : ArbCycle) : List ((BitVec 8 × BitVec 8) × Nat) :=
  [((0x81#8, 0x01#8), a.trkAlloc.length),
    ((0x81#8, 0x20#8), a.trkAlloc.countP fun k => k == .write),
    ((0x84#8, 0x01#8), a.cohTrkAlloc)]

/-- The increment of the event that (EVT_SEL, UMASK) selects in `sel(u, j)`; none where the pair is unlisted or
misplaced (R110, R113, R114, R191). -/
def listedIncrement (u : UnitId) (j : CtrIdx) (x : EvtSel) (c : CboCycle) (a : ArbCycle) : Option Nat :=
  match u with
  | .cbo _ => (cboIncrements c).lookup (x.evt, x.umask)
  | .arb =>
    if x.evt = 0x80#8 ∧ x.umask = 0x01#8 ∧ j = .k0 then some a.trkValid
    else (arbIncrements a).lookup (x.evt, x.umask)

/-! ### The effect of a counting cycle (R190, R192 to R195, R295 to R297) -/

/-- Counter (u, j) counts in a cycle: the global and the local enable are 1 (R194). -/
def State.countsIn (s : State) (mode : CountMode) : Bool := s.pmu.gctrl.en && mode.en

/-- The thresholded increment (R192). -/
def levelOf (mode : CountMode) (inc : Nat) : Nat :=
  if mode.thr.toNat = 0 then inc
  else if mode.inv = true then (if inc < mode.thr.toNat then 1 else 0)
  else if inc < mode.thr.toNat then 0 else 1

/-- What the counter advances by (R193). -/
def advanceOf (mode : CountMode) (inc : Nat) (prev : Bool) : Nat :=
  if mode.edge = true then (if levelOf mode inc = 0 ∨ prev = true then 0 else 1) else levelOf mode inc

/-- The cycle carries out of counter (u, j) (R195). -/
def State.overflowsIn (s : State) (u : UnitId) (j : CtrIdx) (mode : CountMode) (inc : Nat) : Bool :=
  s.countsIn mode && decide (2 ^ 44 ≤ (s.pmu.slot u j).ctr.toNat + advanceOf mode inc (s.pmu.slot u j).prevActive)

/-- The overflow of the cycle is recorded in the status register (R296). -/
def State.recordsIn (s : State) (u : UnitId) (j : CtrIdx) (mode : CountMode) (inc : Nat) : Bool :=
  s.overflowsIn u j mode inc && (!s.part.ovfStatusGated || mode.ovfEn)

/-- The overflow of the cycle requests a PMI (R297). -/
def State.requestsIn (s : State) (u : UnitId) (j : CtrIdx) (mode : CountMode) (inc : Nat) : Bool :=
  s.overflowsIn u j mode inc && mode.ovfEn

/-- What the cycle does to counter (u, j): its event select is kept; a counter that counts advances modulo 2^44 and
remembers the level; one that does not keeps its value, and nothing is said of its edge history (R190, log 12). -/
def CounterEffect (u : UnitId) (j : CtrIdx) (mode : CountMode) (inc : Nat) (s t : State) : Prop :=
  (t.pmu.slot u j).sel = (s.pmu.slot u j).sel ∧
  (s.countsIn mode = true →
    (t.pmu.slot u j).ctr.toNat =
        ((s.pmu.slot u j).ctr.toNat + advanceOf mode inc (s.pmu.slot u j).prevActive) % 2 ^ 44 ∧
      (t.pmu.slot u j).prevActive = decide (levelOf mode inc ≠ 0)) ∧
  (s.countsIn mode = false → (t.pmu.slot u j).ctr = (s.pmu.slot u j).ctr)

/-- The status register after a cycle of unit `u` in which an overflow is recorded or not (R296). -/
def StatusEffect (u : UnitId) (recorded : Bool) (s t : State) : Prop :=
  t.pmu.gstat.cboxOvf = (s.pmu.gstat.cboxOvf || (recorded && u != .arb)) ∧
  t.pmu.gstat.arbOvf = (s.pmu.gstat.arbOvf || (recorded && u == .arb)) ∧
  t.pmu.gstat.fixedOvf = s.pmu.gstat.fixedOvf

/-- What a cycle of unit `u` leaves as it is: every other unit, the other registers, the IMC counters, the sleeping
cores, the part, the results and the labels. -/
def CycleFrame (u : UnitId) (s t : State) : Prop :=
  (∀ v k, v ≠ u → t.pmu.slot v k = s.pmu.slot v k) ∧
  t.pmu.gctrl = s.pmu.gctrl ∧ t.pmu.fctrl = s.pmu.fctrl ∧ t.pmu.fctr = s.pmu.fctr ∧ t.pmu.imc = s.pmu.imc ∧
  t.pmu.asleep = s.pmu.asleep ∧ t.part = s.part ∧ t.issuer = s.issuer ∧ t.results = s.results ∧
  t.delivered = s.delivered

/-- The whole effect of one cycle of counter (u, j) in a mode with an increment. -/
def CycleEffect (u : UnitId) (j : CtrIdx) (mode : CountMode) (inc : Nat) (s t : State) : Prop :=
  CounterEffect u j mode inc s t ∧ StatusEffect u (s.recordsIn u j mode inc) s t ∧
  t.pmu.pmiPending = (s.pmu.pmiPending || s.requestsIn u j mode inc) ∧
  (∀ k, k ≠ j → t.pmu.slot u k = s.pmu.slot u k) ∧ CycleFrame u s t ∧
  t.schedule = s.schedule ∧ t.cboCycle = s.cboCycle ∧ t.arbCycle = s.arbCycle

/-- The effect of a tick of unit `u` in which its counters 0 and 1 receive the increments `n0` and `n1` (R190). -/
def TickEffect (u : UnitId) (n0 n1 : Nat) (s t : State) : Prop :=
  CounterEffect u .k0 (s.pmu.slot u .k0).sel.mode n0 s t ∧ CounterEffect u .k1 (s.pmu.slot u .k1).sel.mode n1 s t ∧
  StatusEffect u
    (s.recordsIn u .k0 (s.pmu.slot u .k0).sel.mode n0 || s.recordsIn u .k1 (s.pmu.slot u .k1).sel.mode n1) s t ∧
  t.pmu.pmiPending =
    (s.pmu.pmiPending || s.requestsIn u .k0 (s.pmu.slot u .k0).sel.mode n0
      || s.requestsIn u .k1 (s.pmu.slot u .k1).sel.mode n1) ∧
  CycleFrame u s t

/-- Counter (u, j) can receive the increment `n` in a cycle with these records: the increment of the listed event that
`sel(u, j)` selects and no other; where it selects none, some number, at most MAX_INC where the part has one (R114,
R191). -/
def State.mayReceive (s : State) (u : UnitId) (j : CtrIdx) (c : CboCycle) (a : ArbCycle) (n : Nat) : Prop :=
  match listedIncrement u j (s.pmu.slot u j).sel c a with
  | some k => n = k
  | none => ∀ m, s.part.maxInc = some m → n ≤ m

/-- The next step is a tick of `u` in which one of its counters overflows, with an increment that the counter can
receive from the record of this very tick (R191, R195); `wanted` says of which counters, by OVF_EN. -/
def State.overflowComes (s : State) (u : UnitId) (wanted : Bool → Bool) : Prop :=
  ∃ c a, s.nextAction = tickOf u c a ∧
    ∃ j n, s.mayReceive u j c a n ∧ s.overflowsIn u j (s.pmu.slot u j).sel.mode n = true ∧
      wanted (s.pmu.slot u j).sel.mode.ovfEn = true

/-- The next step is a tick in which the fixed counter overflows (R158). -/
def State.fixedOverflowComes (s : State) : Prop :=
  s.nextAction = .tickFixed ∧ s.pmu.gctrl.en = true ∧ s.pmu.fctrl.cntEn = true ∧ s.pmu.fctr.toNat = 2 ^ 48 - 1

end Sys2Proof.Machine
end

