-- ==== Sys2Proof/Certificates/Slice0/Obligations.lean ====
section
/-! DEFINITION. The statements for the provers. There is no byte memory (log 26): the five words of physical memory
that the PMU answers for are the IMC counters, `pmu.imc`, and every frame below covers them. -/

open Sys2Proof Sys2Proof.Machine

/-! ### Encoding -/

/-- Words written out from the encoding tables decode to the instructions they stand for (R72, R106, R108, R110,
R263, R268; the record's layout is log 8). -/
def Obligations.WordsDecodeToTheirInstructions : Prop :=
  decode 0 .record [0x01, 0x0E, 0, 0, 0x32, 0, 0, 0, 0, 0, 0, 0, 0, 0, 0, 0] = .ok .rdmsrGlobalCtrl ∧
  decode 0 .record [0x11, 0x07, 0, 0, 0x30, 0, 0, 0, 0x22, 0x44, 0x40, 0, 0, 0, 0, 0]
    = .ok (.wrmsrCbo1PerfEvtSel1 0x00404422#64) ∧
  decode 0xFED10000 .record [4, 0, 0, 0, 0x01, 0, 0, 0, 0x50, 0x50, 0xD1, 0xFE, 0, 0, 0, 0]
    = .ok .mmioRd32DramDataReads ∧
  decode 0 .record [0x4C, 0, 0, 0, 0x03, 0, 0, 0, 0, 0, 0, 0, 0, 0, 0, 0] = .ok .cfgRd32Hi ∧
  decode 0 (.slot (.cbo .c1) .k1) [0x22, 0x44, 0x40, 0, 0, 0, 0, 0]
    = .ok (.xsnpResponseHitXcore .c1 .k1 { thr := 0, inv := false, en := true, ovfEn := false, edge := false }) ∧
  decode 0 (.slot .arb .k0) [0x80, 0x01, 0x40, 0x01, 0, 0, 0, 0]
    = .ok (.arbTrkOccupancyCyclesWithAnyRequest
        { thr := 1, inv := false, en := true, ovfEn := false, edge := false }) ∧
  decode 0 .fixed [0x00, 0x01] = .ok .clockSocket

/-- Decoding the encoding of a well-formed instruction gives it back, on every part; a read of an IMC counter needs that
the IMC words have 64-bit addresses, as on every part with the printed mask (R262). -/
def Obligations.DecodeOfEncode : Prop :=
  ∀ (p : Part) (i : Instr), i.wellFormed = true → ((∃ c : ImcCtr, i = c.rdInstr) → WindowFits p.imcBar) →
    decode p.imcBar (encode p.imcBar i).1 (encode p.imcBar i).2 = .ok i

/-- What decodes to an instruction is the encoding of that instruction, and the instruction is well formed: no two
words of one place stand for one instruction. -/
def Obligations.EncodeOfDecode : Prop :=
  ∀ (p : Part) (pl : Place) (bs : List Byte) (i : Instr), decode p.imcBar pl bs = .ok i →
    encode p.imcBar i = (pl, bs) ∧ i.wellFormed = true

/-- RDMSR and WRMSR of a listed address are the read and the write of the register there. -/
def Obligations.ListedMsrAddressesDecode : Prop :=
  ∀ r ∈ msrRows, ∀ (bar : Nat) (v : Word64),
    (Access.rdmsr r.1).toInstr bar = .ok r.2.1 ∧ (Access.wrmsr r.1 v).toInstr bar = .ok (r.2.2 v)

/-- RDMSR and WRMSR of every other address are refused (R73). -/
def Obligations.UnlistedMsrAddressesRefused : Prop :=
  ∀ (s : State) (n : CoreIdx) (rest : List Action) (a : Word32) (v : Word64), (∀ r ∈ msrRows, r.1 ≠ a) →
    (s.comes n (.rdmsr a) rest → step s = .refused (.rejected .notAPmuMsr)) ∧
    (s.comes n (.wrmsr a v) rest → step s = .refused (.rejected .notAPmuMsr))

/-- Which reads and writes of physical memory have a meaning (R77, R80). Addresses have 64 bits and sizes 32 in an
operation record (log 8). -/
def Obligations.PhysicalMemoryAccesses : Prop :=
  ∀ (s : State) (c : CoreIdx) (rest : List Action) (p n : Nat), p < 2 ^ 64 → n < 2 ^ 32 →
    (s.comes c (.memRead p n) rest →
      (∀ r ∈ imcRows, p = s.part.imcBar + r.2.1 → n = 4 →
        Returns (s.pmu.imc.get r.1).toNat { s with schedule := rest, issuer := c } (step s)) ∧
      ((¬∃ r ∈ imcRows, p = s.part.imcBar + r.2.1 ∧ n = 4) → OverlapsImc s.part.imcBar p n →
        step s = .refused (.rejected .unsupportedMmioAccess)) ∧
      (¬OverlapsImc s.part.imcBar p n → step s = .refused (.rejected .notAPmuAddress))) ∧
    (s.comes c (.memWrite p n) rest →
      (OverlapsImc s.part.imcBar p n → step s = .refused (.rejected .imcWrite)) ∧
      (¬OverlapsImc s.part.imcBar p n → step s = .refused (.rejected .notAPmuAddress)))

/-- Of PCI configuration space only 0:0.0 offsets 0x48 and 0x4C have a meaning: the halves of `cfg48` (R105, R268). -/
def Obligations.ConfigurationReads : Prop :=
  ∀ (s : State) (n : CoreIdx) (rest : List Action) (b d f : Byte) (o : Word32), s.comes n (.cfgRd32 b d f o) rest →
    (b = 0#8 ∧ d = 0#8 ∧ f = 0#8 ∧ o = 0x48#32 →
      Returns (s.part.cfg48.toNat % 2 ^ 32) { s with schedule := rest, issuer := n } (step s)) ∧
    (b = 0#8 ∧ d = 0#8 ∧ f = 0#8 ∧ o = 0x4C#32 →
      Returns (s.part.cfg48.toNat / 2 ^ 32) { s with schedule := rest, issuer := n } (step s)) ∧
    (¬(b = 0#8 ∧ d = 0#8 ∧ f = 0#8 ∧ (o = 0x48#32 ∨ o = 0x4C#32)) →
      step s = .refused (.rejected .notAPmuConfigRegister))

/-- A code selects an event in `sel(u, j)` exactly where the map lists it for the unit and the counter. -/
def Obligations.EventCodesAreListed : Prop :=
  ∀ (u : UnitId) (j : CtrIdx) (x : EvtSel) (c : CboCycle) (a : ArbCycle),
    (decodeEvent u j x).isSome = (listedIncrement u j x c a).isSome

/-! ### What a step runs -/

/-- The issued access operation is decoded and the instruction is executed; where the decoder gives none, the step is
refused with the decoder's reason. The record's layout is the model's (log 8). -/
def Obligations.StepRunsTheIssuedOperation : Prop :=
  ∀ (s : State) (n : CoreIdx) (rest : List Action), s.part.hasCore n = true → s.pmu.asleep.mem n = false →
    (∀ (bytes : List Byte) (i : Instr), s.schedule = .access n bytes :: rest →
      decode s.part.imcBar .record bytes = .ok i →
      step s = exec i { s with schedule := rest, issuer := n }) ∧
    (∀ (a : Access) (i : Instr), s.schedule = .access n a.encode :: rest → Fits a →
      a.toInstr s.part.imcBar = .ok i → step s = exec i { s with schedule := rest, issuer := n }) ∧
    (∀ (a : Access) (r : Reject), s.schedule = .access n a.encode :: rest → Fits a →
      a.toInstr s.part.imcBar = .error r → step s = .refused (.rejected r))

/-- A tick executes the event selections that stand in the two event-select registers of its unit, first counter 0's
and then counter 1's (log 20); a tick of the fixed counter executes UNC_CLOCK.SOCKET. -/
def Obligations.TickRunsTheSelectedEvents : Prop :=
  (∀ (s : State) (c : CboCycle) (i : CboIdx) (e0 e1 : Instr) (m : State) (rest : List Action),
    s.schedule = .tickCbo i c :: rest → i.toNat < s.part.nCbo.toNat → s.part.admitsCbo c = true →
    decodeEvent (.cbo i) .k0 (s.pmu.slot (.cbo i) .k0).sel = some e0 →
    decodeEvent (.cbo i) .k1 (s.pmu.slot (.cbo i) .k1).sel = some e1 →
    exec e0 { s with schedule := rest, cboCycle := c } = .next m → step s = exec e1 m) ∧
  (∀ (s : State) (a : ArbCycle) (e0 e1 : Instr) (m : State) (rest : List Action),
    s.schedule = .tickArb a :: rest → s.part.admitsArb a = true →
    decodeEvent .arb .k0 (s.pmu.slot .arb .k0).sel = some e0 →
    decodeEvent .arb .k1 (s.pmu.slot .arb .k1).sel = some e1 →
    exec e0 { s with schedule := rest, arbCycle := a } = .next m → step s = exec e1 m) ∧
  (∀ (s : State) (rest : List Action), s.schedule = .tickFixed :: rest →
    step s = exec .clockSocket { s with schedule := rest })

/-- An agent that has no step is not run (R10): an access by a core that sleeps (R312) or that the part lacks, a tick of
a CBo that the part lacks, `pmi` with nothing pending (R300), `sleep` and `wake` of a core that the part lacks (R312).
That the model answers with a refusal is its own choice (log 15, log 16). -/
def Obligations.AgentsWithoutAStepAreNotRun : Prop :=
  ∀ (s : State) (rest : List Action) (n : CoreIdx),
    (∀ bytes, s.schedule = .access n bytes :: rest →
      (s.pmu.asleep.mem n = true ∨ s.part.nCores.toNat ≤ n.toNat) → step s = .refused .agentNotEnabled) ∧
    (∀ i c, s.schedule = .tickCbo i c :: rest → s.part.nCbo.toNat ≤ i.toNat → step s = .refused .agentNotEnabled) ∧
    (s.schedule = .pmi :: rest → s.pmu.pmiPending = false → step s = .refused .agentNotEnabled) ∧
    (s.schedule = .sleep n :: rest ∨ s.schedule = .wake n :: rest → s.part.nCores.toNat ≤ n.toNat →
      step s = .refused .agentNotEnabled)

/-! ### The global and the fixed counter's registers -/

/-- RDMSR 0xE01 (R130). -/
def Obligations.GlobalCtrlRead : Prop :=
  ∀ s : State,
    Reads (fun v =>
        v.getLsbD 31 = s.pmu.gctrl.frzOnPmi ∧ v.getLsbD 30 = s.pmu.gctrl.wakeOnPmi ∧ v.getLsbD 29 = s.pmu.gctrl.en ∧
          v.getLsbD 3 = s.pmu.gctrl.pmiSel.p3 ∧ v.getLsbD 2 = s.pmu.gctrl.pmiSel.p2 ∧
          v.getLsbD 1 = s.pmu.gctrl.pmiSel.p1 ∧ v.getLsbD 0 = s.pmu.gctrl.pmiSel.p0)
      0xFFFFFFFF1FFFFFF0#64 s (exec .rdmsrGlobalCtrl s)

/-- WRMSR 0xE01 (R131). -/
def Obligations.GlobalCtrlWrite : Prop :=
  ∀ (s : State) (v : Word64),
    Writes 0xFFFFFFFF1FFFFFF0#64 v s
      { s with pmu := { s.pmu with
          gctrl := { frzOnPmi := v.getLsbD 31, wakeOnPmi := v.getLsbD 30, en := v.getLsbD 29,
                     pmiSel := { p3 := v.getLsbD 3, p2 := v.getLsbD 2, p1 := v.getLsbD 1, p0 := v.getLsbD 0 } } } }
      (exec (.wrmsrGlobalCtrl v) s)

/-- RDMSR 0xE02 (R136). -/
def Obligations.GlobalStatusRead : Prop :=
  ∀ s : State,
    Reads (fun v =>
        v.getLsbD 3 = s.pmu.gstat.cboxOvf ∧ v.getLsbD 1 = s.pmu.gstat.arbOvf ∧ v.getLsbD 0 = s.pmu.gstat.fixedOvf)
      0xFFFFFFFFFFFFFFF4#64 s (exec .rdmsrGlobalStatus s)

/-- WRMSR 0xE02 (R137): a 1 clears the bit, a 0 leaves it. -/
def Obligations.GlobalStatusWriteOneToClear : Prop :=
  ∀ (s : State) (v : Word64),
    Writes 0xFFFFFFFFFFFFFFF4#64 v s
      { s with pmu := { s.pmu with
          gstat := { cboxOvf := if v.getLsbD 3 then false else s.pmu.gstat.cboxOvf
                     arbOvf := if v.getLsbD 1 then false else s.pmu.gstat.arbOvf
                     fixedOvf := if v.getLsbD 0 then false else s.pmu.gstat.fixedOvf } } }
      (exec (.wrmsrGlobalStatus v) s)

/-- RDMSR 0x394 (R150). -/
def Obligations.FixedCtrlRead : Prop :=
  ∀ s : State,
    Reads (fun v => v.getLsbD 22 = s.pmu.fctrl.cntEn ∧ v.getLsbD 20 = s.pmu.fctrl.ovfEn)
      0xFFFFFFFFFFAFFFFF#64 s (exec .rdmsrFixedCtrl s)

/-- WRMSR 0x394 (R151). -/
def Obligations.FixedCtrlWrite : Prop :=
  ∀ (s : State) (v : Word64),
    Writes 0xFFFFFFFFFFAFFFFF#64 v s
      { s with pmu := { s.pmu with fctrl := { cntEn := v.getLsbD 22, ovfEn := v.getLsbD 20 } } }
      (exec (.wrmsrFixedCtrl v) s)

/-- RDMSR 0x395 (R156). -/
def Obligations.FixedCtrRead : Prop :=
  ∀ s : State,
    Reads (fun v => v.extractLsb' 0 48 = s.pmu.fctr) 0xFFFF000000000000#64 s (exec .rdmsrFixedCtr s)

/-- WRMSR 0x395 (R157): no status bit, no PMI request. -/
def Obligations.FixedCtrWrite : Prop :=
  ∀ (s : State) (v : Word64),
    Writes 0xFFFF000000000000#64 v s { s with pmu := { s.pmu with fctr := v.extractLsb' 0 48 } }
      (exec (.wrmsrFixedCtr v) s)

/-! ### MSR_UNC_CBO_CONFIG and the registers of the units -/

/-- RDMSR 0x396 (R170): bits 3:0 are N_CBO + 1. -/
def Obligations.CboConfigRead : Prop :=
  ∀ s : State,
    Reads (fun v => (v.extractLsb' 0 4).toNat = s.part.nCbo.toNat + 1) 0xFFFFFFFFFFFFFFF0#64 s
      (exec .rdmsrCboConfig s)

/-- WRMSR 0x396 (R171): a fault for every value. -/
def Obligations.CboConfigWriteFaults : Prop :=
  ∀ (s : State) (v : Word64), exec (.wrmsrCboConfig v) s = .fault .writeToReadOnlyMsr

/-- RDMSR of a CBo's event-select register (R174): the eight read rows of `cboSelRows`. -/
def Obligations.CboEventSelectRead : Prop :=
  ∀ r ∈ cboSelRows, ∀ s : State,
    (r.1.toNat < s.part.nCbo.toNat →
      Reads (SelFields (s.pmu.slot (.cbo r.1) r.2.1).sel) 0xFFFFFFFFE02B0000#64 s (exec r.2.2.2.1 s)) ∧
    (s.part.nCbo.toNat ≤ r.1.toNat → exec r.2.2.2.1 s = .refused .cboNotPresent)

/-- WRMSR of a CBo's event-select register (R175): the eight write rows of `cboSelRows`. The counter and its edge
history are kept. -/
def Obligations.CboEventSelectWrite : Prop :=
  ∀ r ∈ cboSelRows, ∀ (s : State) (v : Word64),
    (r.1.toNat < s.part.nCbo.toNat →
      ∃ x, SelFields x v ∧
        Writes 0xFFFFFFFFE02B0000#64 v s
          (s.withPmu (s.pmu.putSlot (.cbo r.1) r.2.1 { s.pmu.slot (.cbo r.1) r.2.1 with sel := x }))
          (exec (r.2.2.2.2 v) s)) ∧
    (s.part.nCbo.toNat ≤ r.1.toNat → exec (r.2.2.2.2 v) s = .refused .cboNotPresent)

/-- RDMSR of an ARB event-select register (R176): both read rows of `arbSelRows`. -/
def Obligations.ArbEventSelectRead : Prop :=
  ∀ r ∈ arbSelRows, ∀ s : State,
    Reads (SelFields (s.pmu.slot .arb r.1).sel) 0xFFFFFFFFE02B0000#64 s (exec r.2.2.1 s)

/-- WRMSR of an ARB event-select register (R177): both write rows of `arbSelRows`. -/
def Obligations.ArbEventSelectWrite : Prop :=
  ∀ r ∈ arbSelRows, ∀ (s : State) (v : Word64),
    ∃ x, SelFields x v ∧
      Writes 0xFFFFFFFFE02B0000#64 v s
        (s.withPmu (s.pmu.putSlot .arb r.1 { s.pmu.slot .arb r.1 with sel := x })) (exec (r.2.2.2 v) s)

/-- RDMSR of a CBo's counter (R180): the eight read rows of `cboCtrRows`. -/
def Obligations.CboCounterRead : Prop :=
  ∀ r ∈ cboCtrRows, ∀ s : State,
    (r.1.toNat < s.part.nCbo.toNat →
      Reads (fun v => v.extractLsb' 0 44 = (s.pmu.slot (.cbo r.1) r.2.1).ctr) 0xFFFFF00000000000#64 s
        (exec r.2.2.2.1 s)) ∧
    (s.part.nCbo.toNat ≤ r.1.toNat → exec r.2.2.2.1 s = .refused .cboNotPresent)

/-- WRMSR of a CBo's counter (R181): the eight write rows of `cboCtrRows`. -/
def Obligations.CboCounterWrite : Prop :=
  ∀ r ∈ cboCtrRows, ∀ (s : State) (v : Word64),
    (r.1.toNat < s.part.nCbo.toNat →
      Writes 0xFFFFF00000000000#64 v s
        (s.withPmu (s.pmu.putSlot (.cbo r.1) r.2.1
          { s.pmu.slot (.cbo r.1) r.2.1 with ctr := v.extractLsb' 0 44 }))
        (exec (r.2.2.2.2 v) s)) ∧
    (s.part.nCbo.toNat ≤ r.1.toNat → exec (r.2.2.2.2 v) s = .refused .cboNotPresent)

/-- RDMSR of an ARB counter (R182): both read rows of `arbCtrRows`. -/
def Obligations.ArbCounterRead : Prop :=
  ∀ r ∈ arbCtrRows, ∀ s : State,
    Reads (fun v => v.extractLsb' 0 44 = (s.pmu.slot .arb r.1).ctr) 0xFFFFF00000000000#64 s (exec r.2.2.1 s)

/-- WRMSR of an ARB counter (R183): both write rows of `arbCtrRows`. -/
def Obligations.ArbCounterWrite : Prop :=
  ∀ r ∈ arbCtrRows, ∀ (s : State) (v : Word64),
    Writes 0xFFFFF00000000000#64 v s
      (s.withPmu (s.pmu.putSlot .arb r.1 { s.pmu.slot .arb r.1 with ctr := v.extractLsb' 0 44 }))
      (exec (r.2.2.2 v) s)

/-- A 1 written to a reserved bit of any of the 24 writable registers (R118): refused, a fault, or dropped. -/
def Obligations.ReservedBitsOfAWrite : Prop :=
  ∀ (m : Msr) (s : State) (v : Word64), m ≠ .cboConfig → presentOn s.part m = true → v &&& reservedOf m ≠ 0#64 →
    (s.part.reservedWrite = .refuse → exec (m.wrInstr v) s = .refused .reservedBitSet) ∧
    (s.part.reservedWrite = .fault → exec (m.wrInstr v) s = .fault .reservedBitSet) ∧
    (s.part.reservedWrite = .ignore → exec (m.wrInstr v) s = exec (m.wrInstr (v &&& ~~~(reservedOf m))) s ∧
      ∃ t, exec (m.wrInstr v) s = .next t)

/-- An access to a register of a CBo that the part lacks is refused, whatever the value (R75). -/
def Obligations.AbsentCboRefused : Prop :=
  ∀ r ∈ cboSelRows ++ cboCtrRows, ∀ (s : State) (v : Word64), s.part.nCbo.toNat ≤ r.1.toNat →
    exec r.2.2.2.1 s = .refused .cboNotPresent ∧ exec (r.2.2.2.2 v) s = .refused .cboNotPresent

/-- RDPMC is refused for every index (R103). -/
def Obligations.RdpmcRefused : Prop :=
  ∀ (s : State) (index : Word32), exec (.rdpmc index) s = .refused .rdpmcIndexNotInSource

/-! ### The IMC counters and the configuration register -/

/-- MMIO_RD32 of each of the five counters (R266): the whole count is returned, and nothing else changes. -/
def Obligations.ImcCounterRead : Prop :=
  ∀ r ∈ imcRows, ∀ s : State, Returns (s.pmu.imc.get r.1).toNat s (exec r.2.2 s)

/-- CFG_RD32 of the two halves (R268), and that the two joined and masked with the part's IMC_BAR_MASK are IMC_BAR,
which has no bit outside the mask (R9). With the mask that the source prints IMC_BAR is what R262 computes, a multiple of
0x8000 below 2^43. -/
def Obligations.ConfigurationHalvesGiveTheBase : Prop :=
  ∀ s : State, ∃ lo hi : Word32,
    hi.toNat * 2 ^ 32 + lo.toNat = s.part.cfg48.toNat ∧
    Returns lo.toNat s (exec .cfgRd32Lo s) ∧ Returns hi.toNat s (exec .cfgRd32Hi s) ∧
    s.part.imcBar = (((hi.setWidth 64 <<< 32) ||| lo.setWidth 64) &&& s.part.imcBarMask).toNat ∧
    BitVec.ofNat 64 s.part.imcBar &&& ~~~s.part.imcBarMask = 0#64 ∧
    (s.part.imcBarMask = 0x0007FFFFFF8000#64 →
      s.part.imcBar = (((hi.setWidth 64 <<< 32) ||| lo.setWidth 64) &&& 0x0007FFFFFF8000#64).toNat ∧
      s.part.imcBar % 0x8000 = 0 ∧ s.part.imcBar < 2 ^ 43)

/-- One counted event of an IMC counter (R270): modulo 2^32, whatever the enables are; no status bit, no PMI. -/
def Obligations.ImcEventCounts : Prop :=
  ∀ (s : State) (c : ImcCtr) (rest : List Action), s.schedule = .imc c :: rest →
    ∃ m : ImcCtrs, (m.get c).toNat = ((s.pmu.imc.get c).toNat + 1) % 2 ^ 32 ∧
      (∀ d, d ≠ c → m.get d = s.pmu.imc.get d) ∧
      step s = .next { s with schedule := rest, pmu := { s.pmu with imc := m } }

/-- Nothing but an event of its own changes an IMC counter (R264, R267): no write, no enable, no freeze. -/
def Obligations.ImcChangesOnlyByItsEvents : Prop :=
  ∀ (s t : State) (c : ImcCtr), step s = .next t → s.nextAction ≠ .imc c → t.pmu.imc.get c = s.pmu.imc.get c

/-- Sampling: between two reads of one counter, on any cores, the difference modulo 2^32 is the number of its events,
whatever else happens in between. R277 marks this relation as its own inference, from R265, R266 and R270. -/
def Obligations.ImcSampling : Prop :=
  ∀ r ∈ imcRows, ∀ (s s1 s2 t : State) (n1 n2 : CoreIdx) (as rest : List Action),
    s.schedule =
      .access n1 (encode s.part.imcBar r.2.2).2 :: (as ++
        .access n2 (encode s.part.imcBar r.2.2).2 :: rest) →
    step s = .next s1 → runSteps as.length s1 = .next s2 → step s2 = .next t →
    ((t.results.get n2).toNat + (2 ^ 32 - (s1.results.get n1).toNat)) % 2 ^ 32 = as.count (.imc r.1) % 2 ^ 32

/-! ### Counting -/

/-- UNC_CLOCK.SOCKET, one cycle of the fixed counter (R158, R295 to R297): it counts modulo 2^48 under both enables;
the carry out is recorded and requests a PMI as OVF_EN and OVF_STATUS_GATED say; otherwise nothing changes. -/
def Obligations.FixedCounterCycle : Prop :=
  ∀ s : State,
    ((s.pmu.gctrl.en = false ∨ s.pmu.fctrl.cntEn = false) → exec .clockSocket s = .next s) ∧
    (s.pmu.gctrl.en = true → s.pmu.fctrl.cntEn = true →
      ∃ x : Ctr48, x.toNat = (s.pmu.fctr.toNat + 1) % 2 ^ 48 ∧
        exec .clockSocket s =
          .next { s with pmu := { s.pmu with
            fctr := x
            gstat := { s.pmu.gstat with
              fixedOvf := s.pmu.gstat.fixedOvf ||
                (s.pmu.fctr.toNat + 1 == 2 ^ 48 && (!s.part.ovfStatusGated || s.pmu.fctrl.ovfEn)) }
            pmiPending := s.pmu.pmiPending || (s.pmu.fctr.toNat + 1 == 2 ^ 48 && s.pmu.fctrl.ovfEn) } })

/-- The period of the fixed counter: counting up from any value, it overflows at exactly the tick that reaches 2^48, and
at none before. R161 and corner case 1 of R157 mark this as their own inference, from R158. -/
def Obligations.FixedCounterPeriod : Prop :=
  ∀ (s : State) (k : Nat) (rest : List Action), s.schedule = List.replicate k .tickFixed ++ rest →
    s.pmu.gctrl.en = true → s.pmu.fctrl.cntEn = true → s.pmu.gstat.fixedOvf = false →
    (s.part.ovfStatusGated = false ∨ s.pmu.fctrl.ovfEn = true) → s.pmu.fctr.toNat + k ≤ 2 ^ 48 →
    ∃ t, runSteps k s = .next t ∧ t.pmu.fctr.toNat = (s.pmu.fctr.toNat + k) % 2 ^ 48 ∧
      t.pmu.gstat.fixedOvf = (decide (1 ≤ k) && decide (s.pmu.fctr.toNat + k = 2 ^ 48))

/-- The four snoop-response events (R213 to R216). -/
def Obligations.SnoopResponseEvents : Prop :=
  ∀ (s : State) (i : CboIdx) (j : CtrIdx) (mode : CountMode), i.toNat < s.part.nCbo.toNat →
    (decodeEvent (.cbo i) j { mode := mode, umask := 0x41#8, evt := 0x22#8 } = some (.xsnpResponseMissXcore i j mode) ∧
      ∃ t, exec (.xsnpResponseMissXcore i j mode) s = .next t ∧
        CycleEffect (.cbo i) j mode (s.cboCycle.snoops.countP fun x => x.cause == .xcore && x.resp == .miss) s t) ∧
    (decodeEvent (.cbo i) j { mode := mode, umask := 0x81#8, evt := 0x22#8 }
        = some (.xsnpResponseMissEviction i j mode) ∧
      ∃ t, exec (.xsnpResponseMissEviction i j mode) s = .next t ∧
        CycleEffect (.cbo i) j mode (s.cboCycle.snoops.countP fun x => x.cause == .eviction && x.resp == .miss) s t) ∧
    (decodeEvent (.cbo i) j { mode := mode, umask := 0x44#8, evt := 0x22#8 } = some (.xsnpResponseHitXcore i j mode) ∧
      ∃ t, exec (.xsnpResponseHitXcore i j mode) s = .next t ∧
        CycleEffect (.cbo i) j mode (s.cboCycle.snoops.countP fun x => x.cause == .xcore && x.resp == .hit) s t) ∧
    (decodeEvent (.cbo i) j { mode := mode, umask := 0x48#8, evt := 0x22#8 }
        = some (.xsnpResponseHitmXcore i j mode) ∧
      ∃ t, exec (.xsnpResponseHitmXcore i j mode) s = .next t ∧
        CycleEffect (.cbo i) j mode (s.cboCycle.snoops.countP fun x => x.cause == .xcore && x.resp == .hitm) s t)

/-- The lookup events that select one MESI state (R218 to R221). -/
def Obligations.CacheLookupEventsOfOneState : Prop :=
  ∀ (s : State) (i : CboIdx) (j : CtrIdx) (mode : CountMode), i.toNat < s.part.nCbo.toNat →
    (decodeEvent (.cbo i) j { mode := mode, umask := 0x21#8, evt := 0x34#8 } = some (.cacheLookupWriteM i j mode) ∧
      ∃ t, exec (.cacheLookupWriteM i j mode) s = .next t ∧
        CycleEffect (.cbo i) j mode (s.cboCycle.lookups.countP fun l => l.req == .write && l.state == .m) s t) ∧
    (decodeEvent (.cbo i) j { mode := mode, umask := 0x81#8, evt := 0x34#8 } = some (.cacheLookupAnyM i j mode) ∧
      ∃ t, exec (.cacheLookupAnyM i j mode) s = .next t ∧
        CycleEffect (.cbo i) j mode (s.cboCycle.lookups.countP fun l => l.state == .m) s t) ∧
    (decodeEvent (.cbo i) j { mode := mode, umask := 0x18#8, evt := 0x34#8 } = some (.cacheLookupReadI i j mode) ∧
      ∃ t, exec (.cacheLookupReadI i j mode) s = .next t ∧
        CycleEffect (.cbo i) j mode (s.cboCycle.lookups.countP fun l => l.req == .read && l.state == .i) s t) ∧
    (decodeEvent (.cbo i) j { mode := mode, umask := 0x88#8, evt := 0x34#8 } = some (.cacheLookupAnyI i j mode) ∧
      ∃ t, exec (.cacheLookupAnyI i j mode) s = .next t ∧
        CycleEffect (.cbo i) j mode (s.cboCycle.lookups.countP fun l => l.state == .i) s t)

/-- The lookup events that select any state, or E and S (R222 to R227). -/
def Obligations.CacheLookupEventsOfManyStates : Prop :=
  ∀ (s : State) (i : CboIdx) (j : CtrIdx) (mode : CountMode), i.toNat < s.part.nCbo.toNat →
    (decodeEvent (.cbo i) j { mode := mode, umask := 0x1F#8, evt := 0x34#8 } = some (.cacheLookupReadMesi i j mode) ∧
      ∃ t, exec (.cacheLookupReadMesi i j mode) s = .next t ∧
        CycleEffect (.cbo i) j mode (s.cboCycle.lookups.countP fun l => l.req == .read) s t) ∧
    (decodeEvent (.cbo i) j { mode := mode, umask := 0x2F#8, evt := 0x34#8 } = some (.cacheLookupWriteMesi i j mode) ∧
      ∃ t, exec (.cacheLookupWriteMesi i j mode) s = .next t ∧
        CycleEffect (.cbo i) j mode (s.cboCycle.lookups.countP fun l => l.req == .write) s t) ∧
    (decodeEvent (.cbo i) j { mode := mode, umask := 0x8F#8, evt := 0x34#8 } = some (.cacheLookupAnyMesi i j mode) ∧
      ∃ t, exec (.cacheLookupAnyMesi i j mode) s = .next t ∧
        CycleEffect (.cbo i) j mode s.cboCycle.lookups.length s t) ∧
    (decodeEvent (.cbo i) j { mode := mode, umask := 0x86#8, evt := 0x34#8 } = some (.cacheLookupAnyEs i j mode) ∧
      ∃ t, exec (.cacheLookupAnyEs i j mode) s = .next t ∧
        CycleEffect (.cbo i) j mode (s.cboCycle.lookups.countP fun l => l.state == .e || l.state == .s) s t) ∧
    (decodeEvent (.cbo i) j { mode := mode, umask := 0x16#8, evt := 0x34#8 } = some (.cacheLookupReadEs i j mode) ∧
      ∃ t, exec (.cacheLookupReadEs i j mode) s = .next t ∧
        CycleEffect (.cbo i) j mode
          (s.cboCycle.lookups.countP fun l => l.req == .read && (l.state == .e || l.state == .s)) s t) ∧
    (decodeEvent (.cbo i) j { mode := mode, umask := 0x26#8, evt := 0x34#8 } = some (.cacheLookupWriteEs i j mode) ∧
      ∃ t, exec (.cacheLookupWriteEs i j mode) s = .next t ∧
        CycleEffect (.cbo i) j mode
          (s.cboCycle.lookups.countP fun l => l.req == .write && (l.state == .e || l.state == .s)) s t)

/-- The occupancy of the tracker, unmodified and as a cycle count (R241, R245): the two rows share their code and
their increment, and a THR of 1 tells them apart (log 14). -/
def Obligations.ArbOccupancyEvents : Prop :=
  ∀ (s : State) (mode : CountMode),
    (∃ t, exec (.arbTrkOccupancyAll mode) s = .next t ∧ CycleEffect .arb .k0 mode s.arbCycle.trkValid s t) ∧
    (∃ t, exec (.arbTrkOccupancyCyclesWithAnyRequest mode) s = .next t ∧
      CycleEffect .arb .k0 mode s.arbCycle.trkValid s t) ∧
    (mode.thr = 1#5 →
      decodeEvent .arb .k0 { mode := mode, umask := 0x01#8, evt := 0x80#8 }
        = some (.arbTrkOccupancyCyclesWithAnyRequest mode)) ∧
    (mode.thr ≠ 1#5 →
      decodeEvent .arb .k0 { mode := mode, umask := 0x01#8, evt := 0x80#8 } = some (.arbTrkOccupancyAll mode)) ∧
    decodeEvent .arb .k1 { mode := mode, umask := 0x01#8, evt := 0x80#8 } = none

/-- The allocation events of the ARB (R242 to R244), on either counter. -/
def Obligations.ArbRequestEvents : Prop :=
  ∀ (s : State) (j : CtrIdx) (mode : CountMode),
    (decodeEvent .arb j { mode := mode, umask := 0x01#8, evt := 0x81#8 } = some (.arbTrkRequestsAll j mode) ∧
      ∃ t, exec (.arbTrkRequestsAll j mode) s = .next t ∧
        CycleEffect .arb j mode s.arbCycle.trkAlloc.length s t) ∧
    (decodeEvent .arb j { mode := mode, umask := 0x20#8, evt := 0x81#8 } = some (.arbTrkRequestsWrites j mode) ∧
      ∃ t, exec (.arbTrkRequestsWrites j mode) s = .next t ∧
        CycleEffect .arb j mode (s.arbCycle.trkAlloc.countP fun k => k == .write) s t) ∧
    (decodeEvent .arb j { mode := mode, umask := 0x01#8, evt := 0x84#8 } = some (.arbCohTrkRequestsAll j mode) ∧
      ∃ t, exec (.arbCohTrkRequestsAll j mode) s = .next t ∧ CycleEffect .arb j mode s.arbCycle.cohTrkAlloc s t)

/-- `tick u` (R190, R191): both counters of a present unit see the same cycle, each with the increment of its listed
event; the increment of an unlisted or misplaced code is some number (R114), at most MAX_INC where the part has one.
Without a MAX_INC every record is admitted. -/
def Obligations.TickOfAUnit : Prop :=
  ∀ (s : State) (u : UnitId) (c : CboCycle) (a : ArbCycle) (rest : List Action),
    s.schedule = tickOf u c a :: rest → s.part.hasUnit u = true → s.part.admitsCbo c = true →
    s.part.admitsArb a = true →
    ∃ (n0 n1 : Nat) (t : State), step s = .next t ∧ TickEffect u n0 n1 s t ∧ t.schedule = rest ∧
      (∀ n, listedIncrement u .k0 (s.pmu.slot u .k0).sel c a = some n → n0 = n) ∧
      (∀ n, listedIncrement u .k1 (s.pmu.slot u .k1).sel c a = some n → n1 = n) ∧
      (∀ m, s.part.maxInc = some m →
        (listedIncrement u .k0 (s.pmu.slot u .k0).sel c a = none → n0 ≤ m) ∧
        (listedIncrement u .k1 (s.pmu.slot u .k1).sel c a = none → n1 ≤ m))

/-- The combinations of THR, INV and E. R196 marks its table as its own inference, from R192 and R193; that the edge
detector sits after threshold and invert is the spec's decision D8 (log 23). -/
def Obligations.ThresholdAndEdgeTable : Prop :=
  ∀ (mode : CountMode) (inc : Nat) (prev : Bool),
    (mode.thr = 0#5 → mode.edge = false → countDelta mode inc prev = inc) ∧
    (mode.thr = 0#5 → mode.edge = true →
      countDelta mode inc prev = if inc ≠ 0 ∧ prev = false then 1 else 0) ∧
    (mode.thr ≠ 0#5 → mode.inv = false → mode.edge = false →
      countDelta mode inc prev = if mode.thr.toNat ≤ inc then 1 else 0) ∧
    (mode.thr ≠ 0#5 → mode.inv = true → mode.edge = false →
      countDelta mode inc prev = if inc < mode.thr.toNat then 1 else 0) ∧
    (mode.thr ≠ 0#5 → mode.inv = false → mode.edge = true →
      countDelta mode inc prev = if mode.thr.toNat ≤ inc ∧ prev = false then 1 else 0) ∧
    (mode.thr ≠ 0#5 → mode.inv = true → mode.edge = true →
      countDelta mode inc prev = if inc < mode.thr.toNat ∧ prev = false then 1 else 0)

/-- The relations between the increments of the CBo events in one cycle. R228 marks them as its own inference, from the
increments of R213 to R227. -/
def Obligations.CboEventRelations : Prop :=
  ∀ c : CboCycle,
    lookupCount .any [.m, .e, .s, .i] c =
      lookupCount .any [.m] c + lookupCount .any [.e, .s] c + lookupCount .any [.i] c ∧
    lookupCount .read [.m, .e, .s, .i] c + lookupCount .write [.m, .e, .s, .i] c ≤
      lookupCount .any [.m, .e, .s, .i] c ∧
    ((∀ l ∈ c.lookups, l.req ≠ .other) →
      lookupCount .read [.m, .e, .s, .i] c + lookupCount .write [.m, .e, .s, .i] c =
        lookupCount .any [.m, .e, .s, .i] c) ∧
    lookupCount .write [.m] c ≤ lookupCount .any [.m] c ∧
    lookupCount .read [.i] c ≤ lookupCount .any [.i] c ∧
    lookupCount .read [.e, .s] c + lookupCount .write [.e, .s] c ≤ lookupCount .any [.e, .s] c ∧
    lookupCount .read [.m, .e, .s, .i] c =
      lookupCount .read [.i] c + lookupCount .read [.e, .s] c + lookupCount .read [.m] c ∧
    lookupCount .write [.m, .e, .s, .i] c =
      lookupCount .write [.m] c + lookupCount .write [.e, .s] c + lookupCount .write [.i] c ∧
    snoopCount .xcore .miss c + snoopCount .xcore .hit c + snoopCount .xcore .hitm c ≤
      c.snoops.countP fun x => x.cause == .xcore

/-! ### The PMI and the cores -/

/-- The delivery of a pending PMI (R300 to R303): routing, wake, freeze and labels, all read from GCTRL at this step;
with nothing pending there is no such step. Each target has one label; nothing is said here of the order of the labels,
which the spec leaves open (log 27). -/
def Obligations.PmiDelivery : Prop :=
  ∀ (s : State) (rest : List Action), s.schedule = .pmi :: rest →
    (s.pmu.pmiPending = true →
      ∃ (asleep : CoreSet) (labels : List CoreIdx),
        (∀ n, asleep.mem n =
          (s.pmu.asleep.mem n &&
            !(s.pmu.gctrl.wakeOnPmi && s.pmu.gctrl.pmiSel.mem n && decide (n.toNat < s.part.nCores.toNat)))) ∧
        labels.Perm ([CoreIdx.p0, CoreIdx.p1, CoreIdx.p2, CoreIdx.p3].filter fun n =>
          s.pmu.gctrl.pmiSel.mem n && decide (n.toNat < s.part.nCores.toNat) &&
            (s.pmu.gctrl.wakeOnPmi || !s.pmu.asleep.mem n)) ∧
        step s = .next { s with
          schedule := rest
          pmu := { s.pmu with
            gctrl := { s.pmu.gctrl with en := if s.pmu.gctrl.frzOnPmi then false else s.pmu.gctrl.en }
            pmiPending := false
            asleep := asleep }
          delivered := s.delivered ++ labels }) ∧
    (s.pmu.pmiPending = false → ∀ t, step s ≠ .next t)

/-- `sleep n` and `wake n` for a core of the part change nothing but the set of sleeping cores; for another core there
is no such step (R312). That a sleeping core's access operation does not complete is the model's choice (log 15), after
a sentence that R312 marks as its own inference. -/
def Obligations.SleepAndWake : Prop :=
  ∀ (s : State) (n : CoreIdx) (rest : List Action),
    (n.toNat < s.part.nCores.toNat →
      (s.schedule = .sleep n :: rest →
        ∃ x : CoreSet, x.mem n = true ∧ (∀ m, m ≠ n → x.mem m = s.pmu.asleep.mem m) ∧
          step s = .next { s with schedule := rest, pmu := { s.pmu with asleep := x } }) ∧
      (s.schedule = .wake n :: rest →
        ∃ x : CoreSet, x.mem n = false ∧ (∀ m, m ≠ n → x.mem m = s.pmu.asleep.mem m) ∧
          step s = .next { s with schedule := rest, pmu := { s.pmu with asleep := x } })) ∧
    (s.part.nCores.toNat ≤ n.toNat → s.schedule = .sleep n :: rest ∨ s.schedule = .wake n :: rest →
      ∀ t, step s ≠ .next t) ∧
    (s.pmu.asleep.mem n = true → ∀ bytes, s.schedule = .access n bytes :: rest → ∀ t, step s ≠ .next t)

/-! ### Rules of the whole machine -/

/-- The invariant holds right after reset (the reset values are the model's, log 3, 6 and 7). -/
def Obligations.InvariantAtReset : Prop := State.reset.Inv

/-- Every step keeps the invariant: only cores of the part sleep (R46), and only they receive PMIs (R27, R301). -/
def Obligations.InvariantKeptByEveryStep : Prop :=
  ∀ s t : State, s.Inv → step s = .next t → t.Inv

/-- The parameters of the part are constant (R9, R170, R268), and no step changes a counter, an event select or an edge
history of a CBo that the part lacks (R75). -/
def Obligations.PartIsConstantAndAbsentCbosUntouched : Prop :=
  ∀ s t : State, step s = .next t →
    t.part = s.part ∧
    ∀ (i : CboIdx) (j : CtrIdx), s.part.nCbo.toNat ≤ i.toNat → t.pmu.slot (.cbo i) j = s.pmu.slot (.cbo i) j

/-- No read has a side effect: RDMSR of each register, MMIO_RD32 of each counter (R84) and CFG_RD32 (R268) leave the
whole PMU, the part, the cycle records, the schedule and the labels as they are. R84 marks this as its own inference. -/
def Obligations.ReadsHaveNoSideEffect : Prop :=
  ∀ (s t : State) (i : Instr),
    ((∃ r ∈ msrRows, i = r.2.1) ∨ (∃ r ∈ imcRows, i = r.2.2) ∨ i = .cfgRd32Lo ∨ i = .cfgRd32Hi) →
    exec i s = .next t →
    t.pmu = s.pmu ∧ t.part = s.part ∧ t.cboCycle = s.cboCycle ∧ t.arbCycle = s.arbCycle ∧ t.schedule = s.schedule ∧
      t.issuer = s.issuer ∧ t.delivered = s.delivered ∧
      ∀ n, n ≠ s.issuer → t.results.get n = s.results.get n

/-- A WRMSR changes only the register it addresses (R85). -/
def Obligations.WriteChangesOnlyItsRegister : Prop :=
  ∀ (m : Msr) (s t : State) (v : Word64), exec (m.wrInstr v) s = .next t →
    (m ≠ .globalCtrl → t.pmu.gctrl = s.pmu.gctrl) ∧ (m ≠ .globalStatus → t.pmu.gstat = s.pmu.gstat) ∧
    (m ≠ .fixedCtrl → t.pmu.fctrl = s.pmu.fctrl) ∧ (m ≠ .fixedCtr → t.pmu.fctr = s.pmu.fctr) ∧
    (∀ u j, (m ≠ .perfEvtSel u j → (t.pmu.slot u j).sel = (s.pmu.slot u j).sel) ∧
      (m ≠ .perfCtr u j → (t.pmu.slot u j).ctr = (s.pmu.slot u j).ctr) ∧
      (t.pmu.slot u j).prevActive = (s.pmu.slot u j).prevActive) ∧
    t.pmu.imc = s.pmu.imc ∧ t.pmu.pmiPending = s.pmu.pmiPending ∧ t.pmu.asleep = s.pmu.asleep ∧ t.part = s.part ∧
    t.cboCycle = s.cboCycle ∧ t.arbCycle = s.arbCycle ∧ t.schedule = s.schedule ∧ t.issuer = s.issuer ∧
    t.results = s.results ∧ t.delivered = s.delivered ∧ t.draws = s.draws

/-- One copy of every register is shared by all cores: an access has the same effect on the PMU, and returns the same
value but for reserved bits (R119), whichever core that can issue it does so. R43 says that the source states this
nowhere and infers it (D23). -/
def Obligations.CoresShareOneCopy : Prop :=
  ∀ (s t : State) (n m : CoreIdx) (bytes : List Byte), s.canIssue m = true →
    runAction (.access n bytes) s = .next t →
    ∃ t', runAction (.access m bytes) s = .next t' ∧ t'.pmu = t.pmu ∧
      (t.results = s.results ∧ t'.results = s.results ∨
        ∃ v v', t.results = s.results.put n v ∧ t'.results = s.results.put m v' ∧
          (v = v' ∨ ∃ r, decode s.part.imcBar .record bytes = .ok (Msr.rdInstr r) ∧
            v &&& ~~~(reservedOf r) = v' &&& ~~~(reservedOf r)))

/-- Nothing but a write of 1 clears a status bit, and nothing but a recorded overflow of its group sets one: in a tick
with an increment that the tick's own record gives. R138 marks this as its own inference. -/
def Obligations.StatusBitsChangeOnlyByRule : Prop :=
  ∀ s t : State, step s = .next t →
    (s.pmu.gstat.cboxOvf = true → t.pmu.gstat.cboxOvf = false →
      ∃ v, s.issues (.wrmsrGlobalStatus v) ∧ v.getLsbD 3 = true) ∧
    (s.pmu.gstat.arbOvf = true → t.pmu.gstat.arbOvf = false →
      ∃ v, s.issues (.wrmsrGlobalStatus v) ∧ v.getLsbD 1 = true) ∧
    (s.pmu.gstat.fixedOvf = true → t.pmu.gstat.fixedOvf = false →
      ∃ v, s.issues (.wrmsrGlobalStatus v) ∧ v.getLsbD 0 = true) ∧
    (s.pmu.gstat.cboxOvf = false → t.pmu.gstat.cboxOvf = true →
      ∃ i, s.overflowComes (.cbo i) fun ovfEn => !s.part.ovfStatusGated || ovfEn) ∧
    (s.pmu.gstat.arbOvf = false → t.pmu.gstat.arbOvf = true →
      s.overflowComes .arb fun ovfEn => !s.part.ovfStatusGated || ovfEn) ∧
    (s.pmu.gstat.fixedOvf = false → t.pmu.gstat.fixedOvf = true →
      s.fixedOverflowComes ∧ (s.part.ovfStatusGated = false ∨ s.pmu.fctrl.ovfEn = true))

/-- A PMI is requested by nothing but an overflow with OVF_EN = 1, in a tick with an increment that the tick's own
record gives (R297, R298), and a pending request is withdrawn by nothing but its delivery (R300, R309). -/
def Obligations.PmiRequestsOnlyByOverflow : Prop :=
  ∀ s t : State, step s = .next t →
    (s.pmu.pmiPending = false → t.pmu.pmiPending = true →
      (∃ u, s.overflowComes u fun ovfEn => ovfEn) ∨ (s.fixedOverflowComes ∧ s.pmu.fctrl.ovfEn = true)) ∧
    (s.pmu.pmiPending = true → t.pmu.pmiPending = false → s.nextAction = .pmi)

/-- The control registers change by nothing but a write to them, with one exception, the freeze that clears GCTRL.EN
(R131, R151, R174, R302). -/
def Obligations.ControlRegistersChangeOnlyByWriteOrFreeze : Prop :=
  ∀ s t : State, step s = .next t →
    (t.pmu.gctrl ≠ s.pmu.gctrl →
      (∃ v, s.issues (.wrmsrGlobalCtrl v)) ∨
      (s.nextAction = .pmi ∧ s.pmu.pmiPending = true ∧ s.pmu.gctrl.frzOnPmi = true ∧
        t.pmu.gctrl = { s.pmu.gctrl with en := false })) ∧
    (t.pmu.fctrl ≠ s.pmu.fctrl → ∃ v, s.issues (.wrmsrFixedCtrl v)) ∧
    (∀ u j, (t.pmu.slot u j).sel ≠ (s.pmu.slot u j).sel → ∃ v, s.issues ((Msr.perfEvtSel u j).wrInstr v))

/-- With GCTRL.EN = 0 no counter of the fixed unit, the ARB or a CBo changes but by a write to it, no status bit is set
and no PMI is requested (R132, R194, R302). -/
def Obligations.NothingCountsWhileDisabled : Prop :=
  ∀ s t : State, s.pmu.gctrl.en = false → step s = .next t →
    (t.pmu.fctr ≠ s.pmu.fctr → ∃ v, s.issues (.wrmsrFixedCtr v)) ∧
    (∀ u j, (t.pmu.slot u j).ctr ≠ (s.pmu.slot u j).ctr → ∃ v, s.issues ((Msr.perfCtr u j).wrInstr v)) ∧
    (t.pmu.gstat ≠ s.pmu.gstat → ∃ v, s.issues (.wrmsrGlobalStatus v)) ∧
    (t.pmu.pmiPending ≠ s.pmu.pmiPending → s.nextAction = .pmi)

/-- A request survives whatever comes before its delivery and is then delivered (R300, R309): after any completed run
of other steps the PMI is still pending, and the delivery step completes. That the labels of one delivery stand in
rising core order is the model's choice (log 27). -/
def Obligations.PendingPmiIsDelivered : Prop :=
  ∀ (s m : State) (as rest : List Action), s.schedule = as ++ .pmi :: rest → Action.pmi ∉ as →
    s.pmu.pmiPending = true → runSteps as.length s = .next m →
    m.pmu.pmiPending = true ∧ ∃ t, step m = .next t ∧ t.pmu.pmiPending = false ∧
      ∃ targets : List CoreIdx, t.delivered = m.delivered ++ targets ∧
        targets.Pairwise (fun n k => n.toNat < k.toNat) ∧
        ∀ n, n ∈ targets ↔ m.pmu.gctrl.pmiSel.mem n = true ∧ n.toNat < m.part.nCores.toNat ∧
          (m.pmu.gctrl.wakeOnPmi = true ∨ m.pmu.asleep.mem n = false)
end

