-- ==== Sys2Proof/Laws/Decode.lean ====
section
/-! SUPPORT. The byte order, the EVTSEL format, the address map and the records, each undone by its inverse. -/

namespace Sys2Proof

/-! ### Byte order -/

theorem le32_bytes (x : Word32) : le32 (byteOf 0 x) (byteOf 1 x) (byteOf 2 x) (byteOf 3 x) = x := by
  unfold le32 byteOf
  ext k hk
  simp only [BitVec.getElem_append, BitVec.getElem_extractLsb']
  repeat' split
  all_goals rw [BitVec.getLsbD_eq_getElem (by omega)]; congr 1; omega

theorem le64_bytes (x : Word64) :
    le64 (byteOf 0 x) (byteOf 1 x) (byteOf 2 x) (byteOf 3 x) (byteOf 4 x) (byteOf 5 x) (byteOf 6 x) (byteOf 7 x)
      = x := by
  unfold le64 le32 byteOf
  ext k hk
  simp only [BitVec.getElem_append, BitVec.getElem_extractLsb']
  repeat' split
  all_goals rw [BitVec.getLsbD_eq_getElem (by omega)]; congr 1; omega

theorem bytes32_le32 (a0 a1 a2 a3 : Byte) : bytes32 (le32 a0 a1 a2 a3) = [a0, a1, a2, a3] := by
  unfold bytes32 le32 byteOf
  congr 1
  · ext k hk
    simp only [BitVec.getElem_extractLsb', BitVec.getLsbD_append]
    repeat' split
    all_goals first | omega | (rw [BitVec.getLsbD_eq_getElem (by omega)]; congr 1; omega)
  congr 1
  · ext k hk
    simp only [BitVec.getElem_extractLsb', BitVec.getLsbD_append]
    repeat' split
    all_goals first | omega | (rw [BitVec.getLsbD_eq_getElem (by omega)]; congr 1; omega)
  congr 1
  · ext k hk
    simp only [BitVec.getElem_extractLsb', BitVec.getLsbD_append]
    repeat' split
    all_goals first | omega | (rw [BitVec.getLsbD_eq_getElem (by omega)]; congr 1; omega)
  congr 1
  · ext k hk
    simp only [BitVec.getElem_extractLsb', BitVec.getLsbD_append]
    repeat' split
    all_goals first | omega | (rw [BitVec.getLsbD_eq_getElem (by omega)]; congr 1; omega)

theorem byteOf_low (hi lo : Word32) (k : Nat) (h : k < 4) : byteOf k (hi ++ lo) = byteOf k lo := by
  unfold byteOf
  ext i hi'
  simp only [BitVec.getElem_extractLsb', BitVec.getLsbD_append]
  rw [if_pos (by omega)]

theorem byteOf_high (hi lo : Word32) (k : Nat) : byteOf (4 + k) (hi ++ lo) = byteOf k hi := by
  unfold byteOf
  ext i hi'
  simp only [BitVec.getElem_extractLsb', BitVec.getLsbD_append]
  rw [if_neg (by omega)]
  congr 1
  omega

theorem bytes64_append (hi lo : Word32) : bytes64 (hi ++ lo) = bytes32 lo ++ bytes32 hi := by
  simp only [bytes64, bytes32, List.cons_append, List.nil_append]
  rw [byteOf_low _ _ 0 (by omega), byteOf_low _ _ 1 (by omega), byteOf_low _ _ 2 (by omega),
    byteOf_low _ _ 3 (by omega), byteOf_high hi lo 0, byteOf_high hi lo 1, byteOf_high hi lo 2, byteOf_high hi lo 3]

theorem bytes64_le64 (a0 a1 a2 a3 a4 a5 a6 a7 : Byte) :
    bytes64 (le64 a0 a1 a2 a3 a4 a5 a6 a7) = [a0, a1, a2, a3, a4, a5, a6, a7] := by
  rw [le64, bytes64_append, bytes32_le32, bytes32_le32]
  rfl

/-! ### Operation records -/

/-- A record of kind `k` is read as its operands say. -/
theorem decodeRecord_bytes (a : Word32) (k b d f : Byte) (v : Word64) :
    decodeRecord (bytes32 a ++ [k, b, d, f] ++ bytes64 v) = accessOf k a b d f v := by
  simp only [bytes32, bytes64, List.cons_append, List.nil_append, decodeRecord, le32_bytes, le64_bytes]

/-- Any sixteen bytes are the record of their operands. -/
theorem record_eq_bytes (a0 a1 a2 a3 k b d f v0 v1 v2 v3 v4 v5 v6 v7 : Byte) :
    [a0, a1, a2, a3, k, b, d, f, v0, v1, v2, v3, v4, v5, v6, v7] =
      bytes32 (le32 a0 a1 a2 a3) ++ [k, b, d, f] ++ bytes64 (le64 v0 v1 v2 v3 v4 v5 v6 v7) := by
  rw [bytes32_le32, bytes64_le64]
  rfl

/-- A list of bytes that decodes to an access operation has sixteen bytes. -/
theorem decodeRecord_ok {bs : List Byte} {x : Access} (h : decodeRecord bs = .ok x) :
    ∃ a k b d f v, bs = bytes32 a ++ [k, b, d, f] ++ bytes64 v ∧ accessOf k a b d f v = .ok x := by
  unfold decodeRecord at h
  split at h
  · exact ⟨_, _, _, _, _, _, record_eq_bytes .., h⟩
  · cases h

/-! ### The EVTSEL format -/

/-- Each bit of a packed event-select value (R108). -/
theorem EvtSel.getLsbD_pack (x : EvtSel) (k : Nat) :
    x.pack.getLsbD k =
      (decide (k < 64) && (!decide (k < 24) && x.mode.thr.getLsbD (k - 24) || decide (k = 23) && x.mode.inv
        || decide (k = 22) && x.mode.en || decide (k = 20) && x.mode.ovfEn || decide (k = 18) && x.mode.edge
        || !decide (k < 8) && x.umask.getLsbD (k - 8) || x.evt.getLsbD k)) := by
  have hb : ∀ (b : Bool) (n : Nat), n < 64 → (bitAt b n).getLsbD k = (decide (k = n) && b) := by
    intro b n hn
    by_cases h : k = n
    · subst h
      simp [bitAt, hn]
    · simp only [bitAt, BitVec.getLsbD_shiftLeft, BitVec.getLsbD_setWidth]
      rcases Nat.lt_or_ge k n with h' | h'
      · simp [h, h']
      · simp [h]
        intros
        omega
  simp only [EvtSel.pack, BitVec.getLsbD_or, hb _ _ (by decide : 23 < 64), hb _ _ (by decide : 22 < 64),
    hb _ _ (by decide : 20 < 64), hb _ _ (by decide : 18 < 64), BitVec.getLsbD_shiftLeft, BitVec.getLsbD_setWidth]
  rcases Nat.lt_or_ge k 64 with h | h
  · simp [h, show k - 24 < 64 by omega, show k - 8 < 64 by omega]
  · have hn : ∀ n < 64, k ≠ n := by omega
    simp [Nat.not_lt.2 h, hn]

@[simp] theorem EvtSel.unpack_pack (x : EvtSel) : EvtSel.unpack x.pack = x := by
  obtain ⟨⟨thr, inv, en, ovfEn, edge⟩, umask, evt⟩ := x
  simp only [EvtSel.unpack, EvtSel.mk.injEq, CountMode.mk.injEq]
  refine ⟨⟨?_, ?_, ?_, ?_, ?_⟩, ?_, ?_⟩
  · ext k hk
    rw [BitVec.getElem_extractLsb', EvtSel.getLsbD_pack]
    simp (disch := omega) [show 24 + k < 64 by omega, BitVec.getLsbD_of_ge, show 24 + k ≠ 23 by omega,
      show 24 + k ≠ 22 by omega, show 24 + k ≠ 20 by omega, show 24 + k ≠ 18 by omega, BitVec.getLsbD_eq_getElem]
  · rw [EvtSel.getLsbD_pack]
    simp
  · rw [EvtSel.getLsbD_pack]
    simp
  · rw [EvtSel.getLsbD_pack]
    simp
  · rw [EvtSel.getLsbD_pack]
    simp
  · ext k hk
    rw [BitVec.getElem_extractLsb', EvtSel.getLsbD_pack]
    simp (disch := omega) [show 8 + k < 64 by omega, show 8 + k < 24 by omega, BitVec.getLsbD_of_ge,
      show 8 + k ≠ 23 by omega, show 8 + k ≠ 22 by omega, show 8 + k ≠ 20 by omega, show 8 + k ≠ 18 by omega,
      BitVec.getLsbD_eq_getElem]
  · ext k hk
    rw [BitVec.getElem_extractLsb', EvtSel.getLsbD_pack]
    simp (disch := omega) [show k < 64 by omega, show k < 24 by omega, hk, show k ≠ 23 by omega,
      show k ≠ 22 by omega, show k ≠ 20 by omega, show k ≠ 18 by omega, BitVec.getLsbD_eq_getElem]

/-- A packed value has no reserved bit. -/
@[simp] theorem EvtSel.pack_defined (x : EvtSel) : x.pack &&& ~~~evtSelMask = 0#64 := by
  ext k hk
  rw [← BitVec.getLsbD_eq_getElem, ← BitVec.getLsbD_eq_getElem, BitVec.getLsbD_and, EvtSel.getLsbD_pack]
  interval_cases k <;> simp [evtSelMask]

/-- A value without a reserved bit is the packed value of its fields. -/
theorem EvtSel.pack_unpack {v : Word64} (h : v &&& ~~~evtSelMask = 0#64) : (EvtSel.unpack v).pack = v := by
  ext k hk
  have hk' : v.getLsbD k = true → evtSelMask.getLsbD k = true := by
    intro hv
    have := congrArg (fun w => w.getLsbD k) h
    simp only [BitVec.getLsbD_and, hv, BitVec.getLsbD_not, hk, decide_true, Bool.true_and, BitVec.getLsbD_zero] at this
    simpa using this
  rw [← BitVec.getLsbD_eq_getElem, ← BitVec.getLsbD_eq_getElem, EvtSel.getLsbD_pack]
  revert hk'
  simp only [EvtSel.unpack]
  interval_cases k <;> simp [evtSelMask]

/-- The low half of an event-select value is its code (R110). -/
theorem evtSelOf_append (mode : CountMode) (umask evt : BitVec 8) :
    evtSelOf (umask ++ evt) mode = { mode := mode, umask := umask, evt := evt } := by
  have h1 : (umask ++ evt).extractLsb' 8 8 = umask := by
    ext k hk
    rw [BitVec.getElem_extractLsb', BitVec.getLsbD_append, if_neg (by omega), Nat.add_sub_cancel_left,
      BitVec.getLsbD_eq_getElem hk]
  have h2 : (umask ++ evt).extractLsb' 0 8 = evt := by
    ext k hk
    rw [BitVec.getElem_extractLsb', BitVec.getLsbD_append, if_pos (by omega), Nat.zero_add,
      BitVec.getLsbD_eq_getElem hk]
  simp only [evtSelOf, EvtSel.mk.injEq, true_and]
  exact ⟨h1, h2⟩

/-! ### The address map -/

@[simp] theorem Msr.ofAddr_addr (m : Msr) : Msr.ofAddr m.addr = some m := by
  rcases m with _ | _ | _ | _ | _ | ⟨u, j⟩ | ⟨u, j⟩
  · decide
  · decide
  · decide
  · decide
  · decide
  · rcases u with _ | i
    · cases j <;> decide
    · cases i <;> cases j <;> decide
  · rcases u with _ | i
    · cases j <;> decide
    · cases i <;> cases j <;> decide

/-- The register found at an address has that address. -/
theorem Msr.addr_of_ofAddr {a : Word32} {m : Msr} (h : Msr.ofAddr a = some m) : m.addr = a := by
  have := List.find?_some h
  simpa using this

@[simp] theorem ImcCtr.atAddr_offset (bar : Nat) (c : ImcCtr) : ImcCtr.atAddr bar (bar + c.offset) = some c := by
  cases c <;> simp [ImcCtr.atAddr, ImcCtr.all, ImcCtr.offset]

/-- The counter found at an address has that address. -/
theorem ImcCtr.offset_of_atAddr {bar p : Nat} {c : ImcCtr} (h : ImcCtr.atAddr bar p = some c) :
    bar + c.offset = p := by
  have := List.find?_some h
  simpa using this

end Sys2Proof
end

