-- ==== Sys2Proof/Laws/State.lean ====
section
/-! SUPPORT. One lemma for each field and each update of the state, so that no later proof unfolds a record update. -/

namespace Sys2Proof.Machine

open Sys2Proof

/-! ### Updates of the whole state -/

@[simp] theorem State.withPmu_pmu (s : State) (p : Pmu) : (s.withPmu p).pmu = p := rfl
@[simp] theorem State.withPmu_part (s : State) (p : Pmu) : (s.withPmu p).part = s.part := rfl
@[simp] theorem State.withPmu_cboCycle (s : State) (p : Pmu) : (s.withPmu p).cboCycle = s.cboCycle := rfl
@[simp] theorem State.withPmu_arbCycle (s : State) (p : Pmu) : (s.withPmu p).arbCycle = s.arbCycle := rfl
@[simp] theorem State.withPmu_schedule (s : State) (p : Pmu) : (s.withPmu p).schedule = s.schedule := rfl
@[simp] theorem State.withPmu_issuer (s : State) (p : Pmu) : (s.withPmu p).issuer = s.issuer := rfl
@[simp] theorem State.withPmu_results (s : State) (p : Pmu) : (s.withPmu p).results = s.results := rfl
@[simp] theorem State.withPmu_delivered (s : State) (p : Pmu) : (s.withPmu p).delivered = s.delivered := rfl
@[simp] theorem State.withPmu_draws (s : State) (p : Pmu) : (s.withPmu p).draws = s.draws := rfl
@[simp] theorem State.withPmu_withPmu (s : State) (p q : Pmu) : (s.withPmu p).withPmu q = s.withPmu q := rfl
@[simp] theorem State.withPmu_self (s : State) : s.withPmu s.pmu = s := rfl

@[simp] theorem State.drawn_pmu (s : State) : s.drawn.pmu = s.pmu := rfl
@[simp] theorem State.drawn_part (s : State) : s.drawn.part = s.part := rfl
@[simp] theorem State.drawn_cboCycle (s : State) : s.drawn.cboCycle = s.cboCycle := rfl
@[simp] theorem State.drawn_arbCycle (s : State) : s.drawn.arbCycle = s.arbCycle := rfl
@[simp] theorem State.drawn_schedule (s : State) : s.drawn.schedule = s.schedule := rfl
@[simp] theorem State.drawn_issuer (s : State) : s.drawn.issuer = s.issuer := rfl
@[simp] theorem State.drawn_results (s : State) : s.drawn.results = s.results := rfl
@[simp] theorem State.drawn_delivered (s : State) : s.drawn.delivered = s.delivered := rfl
@[simp] theorem State.drawn_draws (s : State) : s.drawn.draws = s.draws + 1 := rfl

@[simp] theorem State.giveResult_pmu (s : State) (v : Word64) :
    (s.giveResult v).pmu = s.pmu := rfl
@[simp] theorem State.giveResult_part (s : State) (v : Word64) :
    (s.giveResult v).part = s.part := rfl
@[simp] theorem State.giveResult_cboCycle (s : State) (v : Word64) :
    (s.giveResult v).cboCycle = s.cboCycle := rfl
@[simp] theorem State.giveResult_arbCycle (s : State) (v : Word64) :
    (s.giveResult v).arbCycle = s.arbCycle := rfl
@[simp] theorem State.giveResult_schedule (s : State) (v : Word64) :
    (s.giveResult v).schedule = s.schedule := rfl
@[simp] theorem State.giveResult_issuer (s : State) (v : Word64) :
    (s.giveResult v).issuer = s.issuer := rfl
@[simp] theorem State.giveResult_results (s : State) (v : Word64) :
    (s.giveResult v).results = s.results.put s.issuer v := rfl
@[simp] theorem State.giveResult_delivered (s : State) (v : Word64) :
    (s.giveResult v).delivered = s.delivered := rfl
@[simp] theorem State.giveResult_draws (s : State) (v : Word64) :
    (s.giveResult v).draws = s.draws := rfl

/-! ### Programmable counters of the PMU (R41) -/

@[simp] theorem Bank.get_put_same (b : Bank) (j : CtrIdx) (x : Slot) : (b.put j x).get j = x := by
  cases j <;> rfl

theorem Bank.get_put_ne (b : Bank) (x : Slot) : ∀ {j k : CtrIdx}, k ≠ j → (b.put j x).get k = b.get k
  | .k0, .k0, h => absurd rfl h
  | .k1, .k1, h => absurd rfl h
  | .k0, .k1, _ => rfl
  | .k1, .k0, _ => rfl

@[simp] theorem Pmu.bank_putBank_same (p : Pmu) (u : UnitId) (b : Bank) : (p.putBank u b).bank u = b := by
  rcases u with _ | i
  · rfl
  · cases i <;> rfl

theorem Pmu.bank_putBank_ne (p : Pmu) (b : Bank) {u v : UnitId} (h : v ≠ u) :
    (p.putBank u b).bank v = p.bank v := by
  rcases u with _ | i <;> rcases v with _ | k
  · exact absurd rfl h
  · cases k <;> rfl
  · cases i <;> rfl
  · cases i <;> cases k <;> first | rfl | exact absurd rfl h

@[simp] theorem Pmu.slot_putSlot_same (p : Pmu) (u : UnitId) (j : CtrIdx) (x : Slot) :
    (p.putSlot u j x).slot u j = x := by
  simp [Pmu.slot, Pmu.putSlot]

/-- Replacing one programmable counter leaves every other as it is. -/
theorem Pmu.slot_putSlot_ne (p : Pmu) (x : Slot) {u v : UnitId} {j k : CtrIdx} (h : ¬(v = u ∧ k = j)) :
    (p.putSlot u j x).slot v k = p.slot v k := by
  by_cases hv : v = u
  · subst hv
    simp only [Pmu.slot, Pmu.putSlot, Pmu.bank_putBank_same]
    exact Bank.get_put_ne _ _ fun hk => h ⟨rfl, hk⟩
  · simp only [Pmu.slot, Pmu.putSlot]
    rw [Pmu.bank_putBank_ne p _ hv]

@[simp] theorem Pmu.putBank_gctrl (p : Pmu) (u : UnitId) (b : Bank) : (p.putBank u b).gctrl = p.gctrl := by
  rcases u with _ | i
  · rfl
  · cases i <;> rfl
@[simp] theorem Pmu.putBank_gstat (p : Pmu) (u : UnitId) (b : Bank) : (p.putBank u b).gstat = p.gstat := by
  rcases u with _ | i
  · rfl
  · cases i <;> rfl
@[simp] theorem Pmu.putBank_fctrl (p : Pmu) (u : UnitId) (b : Bank) : (p.putBank u b).fctrl = p.fctrl := by
  rcases u with _ | i
  · rfl
  · cases i <;> rfl
@[simp] theorem Pmu.putBank_fctr (p : Pmu) (u : UnitId) (b : Bank) : (p.putBank u b).fctr = p.fctr := by
  rcases u with _ | i
  · rfl
  · cases i <;> rfl
@[simp] theorem Pmu.putBank_imc (p : Pmu) (u : UnitId) (b : Bank) : (p.putBank u b).imc = p.imc := by
  rcases u with _ | i
  · rfl
  · cases i <;> rfl
@[simp] theorem Pmu.putBank_pmiPending (p : Pmu) (u : UnitId) (b : Bank) :
    (p.putBank u b).pmiPending = p.pmiPending := by
  rcases u with _ | i
  · rfl
  · cases i <;> rfl
@[simp] theorem Pmu.putBank_asleep (p : Pmu) (u : UnitId) (b : Bank) : (p.putBank u b).asleep = p.asleep := by
  rcases u with _ | i
  · rfl
  · cases i <;> rfl

@[simp] theorem Pmu.putSlot_gctrl (p : Pmu) (u : UnitId) (j : CtrIdx) (x : Slot) : (p.putSlot u j x).gctrl = p.gctrl :=
  Pmu.putBank_gctrl p u _
@[simp] theorem Pmu.putSlot_gstat (p : Pmu) (u : UnitId) (j : CtrIdx) (x : Slot) : (p.putSlot u j x).gstat = p.gstat :=
  Pmu.putBank_gstat p u _
@[simp] theorem Pmu.putSlot_fctrl (p : Pmu) (u : UnitId) (j : CtrIdx) (x : Slot) : (p.putSlot u j x).fctrl = p.fctrl :=
  Pmu.putBank_fctrl p u _
@[simp] theorem Pmu.putSlot_fctr (p : Pmu) (u : UnitId) (j : CtrIdx) (x : Slot) : (p.putSlot u j x).fctr = p.fctr :=
  Pmu.putBank_fctr p u _
@[simp] theorem Pmu.putSlot_imc (p : Pmu) (u : UnitId) (j : CtrIdx) (x : Slot) : (p.putSlot u j x).imc = p.imc :=
  Pmu.putBank_imc p u _
@[simp] theorem Pmu.putSlot_pmiPending (p : Pmu) (u : UnitId) (j : CtrIdx) (x : Slot) :
    (p.putSlot u j x).pmiPending = p.pmiPending :=
  Pmu.putBank_pmiPending p u _
@[simp] theorem Pmu.putSlot_asleep (p : Pmu) (u : UnitId) (j : CtrIdx) (x : Slot) :
    (p.putSlot u j x).asleep = p.asleep :=
  Pmu.putBank_asleep p u _

/-! ### Updates of other fields leave the programmable counters alone -/

@[simp] theorem Pmu.slot_set_gctrl (p : Pmu) (x : GlobalCtrl) (u : UnitId) (j : CtrIdx) :
    Pmu.slot { p with gctrl := x } u j = p.slot u j := by
  rcases u with _ | i
  · rfl
  · cases i <;> rfl
@[simp] theorem Pmu.slot_set_gstat (p : Pmu) (x : GlobalStatus) (u : UnitId) (j : CtrIdx) :
    Pmu.slot { p with gstat := x } u j = p.slot u j := by
  rcases u with _ | i
  · rfl
  · cases i <;> rfl
@[simp] theorem Pmu.slot_set_fctrl (p : Pmu) (x : FixedCtrl) (u : UnitId) (j : CtrIdx) :
    Pmu.slot { p with fctrl := x } u j = p.slot u j := by
  rcases u with _ | i
  · rfl
  · cases i <;> rfl
@[simp] theorem Pmu.slot_set_fctr (p : Pmu) (x : Ctr48) (u : UnitId) (j : CtrIdx) :
    Pmu.slot { p with fctr := x } u j = p.slot u j := by
  rcases u with _ | i
  · rfl
  · cases i <;> rfl
@[simp] theorem Pmu.slot_set_imc (p : Pmu) (x : ImcCtrs) (u : UnitId) (j : CtrIdx) :
    Pmu.slot { p with imc := x } u j = p.slot u j := by
  rcases u with _ | i
  · rfl
  · cases i <;> rfl
@[simp] theorem Pmu.slot_set_pmiPending (p : Pmu) (x : Bool) (u : UnitId) (j : CtrIdx) :
    Pmu.slot { p with pmiPending := x } u j = p.slot u j := by
  rcases u with _ | i
  · rfl
  · cases i <;> rfl
@[simp] theorem Pmu.slot_set_asleep (p : Pmu) (x : CoreSet) (u : UnitId) (j : CtrIdx) :
    Pmu.slot { p with asleep := x } u j = p.slot u j := by
  rcases u with _ | i
  · rfl
  · cases i <;> rfl

/-! ### Sets of cores, per-core values, IMC counters -/

@[simp] theorem CoreSet.mem_empty (n : CoreIdx) : CoreSet.empty.mem n = false := by cases n <;> rfl

@[simp] theorem CoreSet.mem_put_same (x : CoreSet) (n : CoreIdx) (b : Bool) : (x.put n b).mem n = b := by
  cases n <;> rfl

theorem CoreSet.mem_put_ne (x : CoreSet) (b : Bool) {n m : CoreIdx} (h : m ≠ n) : (x.put n b).mem m = x.mem m := by
  cases n <;> cases m <;> first | rfl | exact absurd rfl h

@[simp] theorem CoreSet.mem_inter (x y : CoreSet) (n : CoreIdx) : (x.inter y).mem n = (x.mem n && y.mem n) := by
  cases n <;> rfl

@[simp] theorem CoreSet.mem_diff (x y : CoreSet) (n : CoreIdx) : (x.diff y).mem n = (x.mem n && !y.mem n) := by
  cases n <;> rfl

@[simp] theorem CoreSet.mem_toList (x : CoreSet) (n : CoreIdx) : n ∈ x.toList ↔ x.mem n = true := by
  cases n <;> simp [CoreSet.toList]

@[simp] theorem Part.mem_cores (p : Part) (n : CoreIdx) : p.cores.mem n = p.hasCore n := by cases n <;> rfl

@[simp] theorem PerCore.get_put_same (x : PerCore) (n : CoreIdx) (v : Word64) : (x.put n v).get n = v := by
  cases n <;> rfl

theorem PerCore.get_put_ne (x : PerCore) (v : Word64) {n m : CoreIdx} (h : m ≠ n) : (x.put n v).get m = x.get m := by
  cases n <;> cases m <;> first | rfl | exact absurd rfl h

@[simp] theorem ImcCtrs.get_put_same (x : ImcCtrs) (c : ImcCtr) (v : Word32) : (x.put c v).get c = v := by
  cases c <;> rfl

theorem ImcCtrs.get_put_ne (x : ImcCtrs) (v : Word32) {c d : ImcCtr} (h : d ≠ c) : (x.put c v).get d = x.get d := by
  cases c <;> cases d <;> first | rfl | exact absurd rfl h

/-! ### The overflow (R295) -/

@[simp] theorem overflow_gctrl (g : Bool) (src : OvfSource) (e : Bool) (p : Pmu) :
    (overflow g src e p).gctrl = p.gctrl := rfl
@[simp] theorem overflow_gstat (g : Bool) (src : OvfSource) (e : Bool) (p : Pmu) :
    (overflow g src e p).gstat = recordStatus g e src p.gstat := rfl
@[simp] theorem overflow_fctrl (g : Bool) (src : OvfSource) (e : Bool) (p : Pmu) :
    (overflow g src e p).fctrl = p.fctrl := rfl
@[simp] theorem overflow_fctr (g : Bool) (src : OvfSource) (e : Bool) (p : Pmu) :
    (overflow g src e p).fctr = p.fctr := rfl
@[simp] theorem overflow_imc (g : Bool) (src : OvfSource) (e : Bool) (p : Pmu) :
    (overflow g src e p).imc = p.imc := rfl
@[simp] theorem overflow_pmiPending (g : Bool) (src : OvfSource) (e : Bool) (p : Pmu) :
    (overflow g src e p).pmiPending = (p.pmiPending || e) := rfl
@[simp] theorem overflow_asleep (g : Bool) (src : OvfSource) (e : Bool) (p : Pmu) :
    (overflow g src e p).asleep = p.asleep := rfl
@[simp] theorem overflow_slot (g : Bool) (src : OvfSource) (e : Bool) (p : Pmu) (u : UnitId) (j : CtrIdx) :
    (overflow g src e p).slot u j = p.slot u j := by
  rcases u with _ | i
  · rfl
  · cases i <;> rfl

/-! ### The delivery of a PMI (R300) -/

@[simp] theorem deliverPmi_pmu_gctrl (s : State) :
    (deliverPmi s).pmu.gctrl = { s.pmu.gctrl with en := s.pmu.gctrl.en && !s.pmu.gctrl.frzOnPmi } := rfl
@[simp] theorem deliverPmi_pmu_gstat (s : State) :
    (deliverPmi s).pmu.gstat = s.pmu.gstat := rfl
@[simp] theorem deliverPmi_pmu_fctrl (s : State) :
    (deliverPmi s).pmu.fctrl = s.pmu.fctrl := rfl
@[simp] theorem deliverPmi_pmu_fctr (s : State) :
    (deliverPmi s).pmu.fctr = s.pmu.fctr := rfl
@[simp] theorem deliverPmi_pmu_imc (s : State) :
    (deliverPmi s).pmu.imc = s.pmu.imc := rfl
@[simp] theorem deliverPmi_pmu_pmiPending (s : State) :
    (deliverPmi s).pmu.pmiPending = false := rfl
@[simp] theorem deliverPmi_pmu_asleep (s : State) :
    (deliverPmi s).pmu.asleep = s.asleepAfterPmi := rfl
@[simp] theorem deliverPmi_part (s : State) : (deliverPmi s).part = s.part := rfl
@[simp] theorem deliverPmi_cboCycle (s : State) : (deliverPmi s).cboCycle = s.cboCycle := rfl
@[simp] theorem deliverPmi_arbCycle (s : State) : (deliverPmi s).arbCycle = s.arbCycle := rfl
@[simp] theorem deliverPmi_schedule (s : State) : (deliverPmi s).schedule = s.schedule := rfl
@[simp] theorem deliverPmi_issuer (s : State) : (deliverPmi s).issuer = s.issuer := rfl
@[simp] theorem deliverPmi_results (s : State) : (deliverPmi s).results = s.results := rfl
@[simp] theorem deliverPmi_delivered (s : State) : (deliverPmi s).delivered = s.delivered ++ s.pmiTargets.toList := rfl
@[simp] theorem deliverPmi_draws (s : State) : (deliverPmi s).draws = s.draws := rfl
@[simp] theorem deliverPmi_slot (s : State) (u : UnitId) (j : CtrIdx) :
    (deliverPmi s).pmu.slot u j = s.pmu.slot u j := by
  rcases u with _ | i
  · rfl
  · cases i <;> rfl

end Sys2Proof.Machine
end

