-- ==== Sys2Proof/Laws/Ops.lean ====
section
/-! SUPPORT. For each shared operation, once, everything it can do: the provers cite these instead of unfolding. -/

namespace Sys2Proof.Machine

open Sys2Proof

/-! ### Reads and writes -/

theorem readMsr_next {mask fields : Word64} {s t : State} (h : readMsr mask fields s = .next t) :
    t = (s.giveResult (fields ||| s.reservedBits mask)).drawn := by
  cases h
  rfl

theorem read32_next {v : Word32} {s t : State} (h : read32 v s = .next t) : t = s.giveResult (v.setWidth 64) := by
  cases h
  rfl

/-- The reserved bits of a read lie outside the mask. -/
theorem State.reservedBits_and_mask (s : State) (mask : Word64) : s.reservedBits mask &&& mask = 0#64 := by
  unfold State.reservedBits
  split
  · rw [BitVec.and_assoc, BitVec.and_comm (~~~mask), BitVec.and_not_self]
    exact BitVec.and_zero
  · exact BitVec.zero_and

theorem writeMsr_of_defined {mask v : Word64} (s : State) (p : Pmu) (h : v &&& ~~~mask = 0#64) :
    writeMsr mask v s p = .next (s.withPmu p) := if_pos h

/-- A write goes through where no reserved bit is set, and where RESERVED_WRITE ignores them. -/
theorem writeMsr_next {mask v : Word64} {s t : State} {p : Pmu} (h : writeMsr mask v s p = .next t) :
    t = s.withPmu p ∧ (v &&& ~~~mask = 0#64 ∨ s.part.reservedWrite = .ignore) := by
  unfold writeMsr at h
  split at h
  next hv => cases h; exact ⟨rfl, .inl hv⟩
  next =>
    split at h
    · cases h
    · cases h
    next hr => cases h; exact ⟨rfl, .inr hr⟩

theorem ifPresent_of_present {u : UnitId} {s : State} (k : State → Answer) (h : s.part.hasUnit u = true) :
    ifPresent u s k = k s := if_pos h

theorem ifPresent_next {u : UnitId} {s t : State} {k : State → Answer} (h : ifPresent u s k = .next t) :
    s.part.hasUnit u = true ∧ k s = .next t := by
  unfold ifPresent at h
  split at h
  next hu => exact ⟨hu, h⟩
  next => cases h

theorem ifEnabled_next {b : Bool} {a : Answer} {t : State} (h : ifEnabled b a = .next t) : b = true ∧ a = .next t := by
  unfold ifEnabled at h
  split at h
  next hb => exact ⟨hb, h⟩
  next => cases h

/-! ### Counting -/

/-- The sum that R190 forms for counter (u, j). -/
def State.countSum (s : State) (u : UnitId) (j : CtrIdx) (mode : CountMode) (inc : Nat) : Nat :=
  (s.pmu.slot u j).ctr.toNat + countDelta mode inc (s.pmu.slot u j).prevActive

/-- A counting cycle of counter (u, j) without the overflow's effects. -/
def State.counted (s : State) (u : UnitId) (j : CtrIdx) (mode : CountMode) (inc : Nat) : Pmu :=
  s.pmu.putSlot u j
    { sel := (s.pmu.slot u j).sel
      ctr := BitVec.ofNat 44 (s.countSum u j mode inc)
      prevActive := decide (threshold inc mode.thr mode.inv ≠ 0) }

/-- A cycle in which the counter counts and does not overflow. -/
theorem countSlot_counting {u : UnitId} {j : CtrIdx} {mode : CountMode} {inc : Nat} {s : State}
    (h : (s.pmu.gctrl.en && mode.en) = true) (hs : s.countSum u j mode inc < 2 ^ 44) :
    countSlot u j mode inc s = s.withPmu (s.counted u j mode inc) := by
  simp only [countSlot, h, if_true]
  rw [if_neg (by simpa [State.countSum] using hs)]
  rfl

/-- A cycle in which the counter counts and overflows. -/
theorem countSlot_overflowing {u : UnitId} {j : CtrIdx} {mode : CountMode} {inc : Nat} {s : State}
    (h : (s.pmu.gctrl.en && mode.en) = true) (hs : 2 ^ 44 ≤ s.countSum u j mode inc) :
    countSlot u j mode inc s =
      s.withPmu (overflow s.part.ovfStatusGated (.counter u) mode.ovfEn (s.counted u j mode inc)) := by
  simp only [countSlot, h, if_true]
  rw [if_pos (by simpa [State.countSum] using hs)]
  rfl

/-- A cycle in which the counter does not count: its edge history becomes a free value. -/
theorem countSlot_idle {u : UnitId} {j : CtrIdx} {mode : CountMode} {inc : Nat} {s : State}
    (h : (s.pmu.gctrl.en && mode.en) = false) :
    countSlot u j mode inc s =
      (s.withPmu (s.pmu.putSlot u j { s.pmu.slot u j with prevActive := Config.freeEdge s.draws })).drawn := by
  simp [countSlot, h]

/-- The three things a cycle of counter (u, j) can do. -/
theorem countSlot_cases (u : UnitId) (j : CtrIdx) (mode : CountMode) (inc : Nat) (s : State) :
    ((s.pmu.gctrl.en && mode.en) = false ∧
      countSlot u j mode inc s =
        (s.withPmu (s.pmu.putSlot u j { s.pmu.slot u j with prevActive := Config.freeEdge s.draws })).drawn) ∨
    ((s.pmu.gctrl.en && mode.en) = true ∧ s.countSum u j mode inc < 2 ^ 44 ∧
      countSlot u j mode inc s = s.withPmu (s.counted u j mode inc)) ∨
    ((s.pmu.gctrl.en && mode.en) = true ∧ 2 ^ 44 ≤ s.countSum u j mode inc ∧
      countSlot u j mode inc s =
        s.withPmu (overflow s.part.ovfStatusGated (.counter u) mode.ovfEn (s.counted u j mode inc))) := by
  cases h : (s.pmu.gctrl.en && mode.en) with
  | false => exact .inl ⟨rfl, countSlot_idle h⟩
  | true =>
    rcases Nat.lt_or_ge (s.countSum u j mode inc) (2 ^ 44) with hs | hs
    · exact .inr (.inl ⟨rfl, hs, countSlot_counting h hs⟩)
    · exact .inr (.inr ⟨rfl, hs, countSlot_overflowing h hs⟩)

/-- What a cycle of counter (u, j) leaves as it is. -/
theorem countSlot_frame (u : UnitId) (j : CtrIdx) (mode : CountMode) (inc : Nat) (s : State) :
    let t := countSlot u j mode inc s
    t.pmu.gctrl = s.pmu.gctrl ∧ t.pmu.fctrl = s.pmu.fctrl ∧ t.pmu.fctr = s.pmu.fctr ∧ t.pmu.imc = s.pmu.imc ∧
      t.pmu.asleep = s.pmu.asleep ∧ t.part = s.part ∧ t.cboCycle = s.cboCycle ∧ t.arbCycle = s.arbCycle ∧
      t.schedule = s.schedule ∧ t.issuer = s.issuer ∧ t.results = s.results ∧ t.delivered = s.delivered ∧
      (∀ v k, (t.pmu.slot v k).sel = (s.pmu.slot v k).sel) ∧
      (∀ v k, ¬(v = u ∧ k = j) → t.pmu.slot v k = s.pmu.slot v k) := by
  have hsel : ∀ (x : Slot), x.sel = (s.pmu.slot u j).sel →
      ∀ v k, ((s.pmu.putSlot u j x).slot v k).sel = (s.pmu.slot v k).sel := by
    intro x hx v k
    by_cases h : v = u ∧ k = j
    · obtain ⟨rfl, rfl⟩ := h
      simpa using hx
    · rw [Pmu.slot_putSlot_ne _ _ h]
  have hne : ∀ (x : Slot) v k, ¬(v = u ∧ k = j) → (s.pmu.putSlot u j x).slot v k = s.pmu.slot v k :=
    fun x v k h => Pmu.slot_putSlot_ne _ x h
  rcases countSlot_cases u j mode inc s with ⟨-, e⟩ | ⟨-, -, e⟩ | ⟨-, -, e⟩ <;> simp only [e, State.counted]
  · exact ⟨by simp, by simp, by simp, by simp, by simp, rfl, rfl, rfl, rfl, rfl, rfl, rfl, hsel _ rfl, hne _⟩
  · exact ⟨by simp, by simp, by simp, by simp, by simp, rfl, rfl, rfl, rfl, rfl, rfl, rfl, hsel _ rfl, hne _⟩
  · exact ⟨by simp, by simp, by simp, by simp, by simp, rfl, rfl, rfl, rfl, rfl, rfl, rfl,
      fun v k => by rw [State.withPmu_pmu, overflow_slot]; apply hsel; rfl,
      fun v k h => by rw [State.withPmu_pmu, overflow_slot]; exact hne _ v k h⟩

theorem countEvent_next {u : UnitId} {j : CtrIdx} {mode : CountMode} {inc : Nat} {s t : State}
    (h : countEvent u j mode inc s = .next t) : s.part.hasUnit u = true ∧ t = countSlot u j mode inc s := by
  obtain ⟨hu, hk⟩ := ifPresent_next h
  cases hk
  exact ⟨hu, rfl⟩

/-- The three things a cycle of the fixed counter can do. -/
theorem countFixed_cases (s : State) :
    ((s.pmu.gctrl.en && s.pmu.fctrl.cntEn) = false ∧ countFixed s = s) ∨
    ((s.pmu.gctrl.en && s.pmu.fctrl.cntEn) = true ∧ s.pmu.fctr.toNat + 1 < 2 ^ 48 ∧
      countFixed s = s.withPmu { s.pmu with fctr := BitVec.ofNat 48 (s.pmu.fctr.toNat + 1) }) ∨
    ((s.pmu.gctrl.en && s.pmu.fctrl.cntEn) = true ∧ 2 ^ 48 ≤ s.pmu.fctr.toNat + 1 ∧
      countFixed s =
        s.withPmu (overflow s.part.ovfStatusGated .fixed s.pmu.fctrl.ovfEn
          { s.pmu with fctr := BitVec.ofNat 48 (s.pmu.fctr.toNat + 1) })) := by
  cases h : (s.pmu.gctrl.en && s.pmu.fctrl.cntEn) with
  | false => exact .inl ⟨rfl, by simp [countFixed, h]⟩
  | true =>
    rcases Nat.lt_or_ge (s.pmu.fctr.toNat + 1) (2 ^ 48) with hs | hs
    · refine .inr (.inl ⟨rfl, hs, ?_⟩)
      simp only [countFixed, h, if_true]
      rw [if_neg (by omega)]
    · refine .inr (.inr ⟨rfl, hs, ?_⟩)
      simp only [countFixed, h, if_true]
      rw [if_pos hs]

end Sys2Proof.Machine
end

