-- ==== Sys2Proof/Laws/Exec.lean ====
section
/-! SUPPORT. What the instructions and the steps of the agents can do, each said once: the reads and writes register by
register, an event selection as a counting cycle, and the cases of a step. -/

namespace Sys2Proof.Machine

open Sys2Proof

/-! ### Reads and writes, register by register -/

/-- The value of a register's defined fields. -/
def State.msrValue (s : State) : Msr → Word64
  | .globalCtrl => s.pmu.gctrl.pack
  | .globalStatus => s.pmu.gstat.pack
  | .fixedCtrl => s.pmu.fctrl.pack
  | .fixedCtr => s.pmu.fctr.setWidth 64
  | .cboConfig => s.part.noCboBanks.setWidth 64
  | .perfCtr u j => (s.pmu.slot u j).ctr.setWidth 64
  | .perfEvtSel u j => (s.pmu.slot u j).sel.pack

/-- The PMU after a write of `v` to a register has gone through. -/
def Pmu.writeMsr (p : Pmu) (v : Word64) : Msr → Pmu
  | .globalCtrl => { p with gctrl := GlobalCtrl.unpack v }
  | .globalStatus => { p with gstat := p.gstat.clearBits v }
  | .fixedCtrl => { p with fctrl := FixedCtrl.unpack v }
  | .fixedCtr => { p with fctr := v.setWidth 48 }
  | .cboConfig => p
  | .perfCtr u j => p.putSlot u j { p.slot u j with ctr := v.setWidth 44 }
  | .perfEvtSel u j => p.putSlot u j { p.slot u j with sel := EvtSel.unpack v }

/-- The mask of a register's defined bits. -/
def maskOf : Msr → Word64
  | .globalCtrl => gctrlMask
  | .globalStatus => gstatMask
  | .fixedCtrl => fctrlMask
  | .fixedCtr => ctr48Mask
  | .cboConfig => cboCfgMask
  | .perfCtr _ _ => ctr44Mask
  | .perfEvtSel _ _ => evtSelMask

theorem not_maskOf (m : Msr) : ~~~(maskOf m) = reservedOf m := by
  cases m <;> simp only [maskOf, reservedOf] <;> decide

theorem exec_rdInstr_perfCtr (u : UnitId) (j : CtrIdx) (s : State) :
    exec (Msr.perfCtr u j).rdInstr s = readCtr u j s := by
  rcases u with _ | i
  · cases j <;> rfl
  · cases i <;> cases j <;> rfl

theorem exec_rdInstr_perfEvtSel (u : UnitId) (j : CtrIdx) (s : State) :
    exec (Msr.perfEvtSel u j).rdInstr s = readEvtSel u j s := by
  rcases u with _ | i
  · cases j <;> rfl
  · cases i <;> cases j <;> rfl

theorem exec_wrInstr_perfCtr (u : UnitId) (j : CtrIdx) (v : Word64) (s : State) :
    exec ((Msr.perfCtr u j).wrInstr v) s = writeCtr u j v s := by
  rcases u with _ | i
  · cases j <;> rfl
  · cases i <;> cases j <;> rfl

theorem exec_wrInstr_perfEvtSel (u : UnitId) (j : CtrIdx) (v : Word64) (s : State) :
    exec ((Msr.perfEvtSel u j).wrInstr v) s = writeEvtSel u j v s := by
  rcases u with _ | i
  · cases j <;> rfl
  · cases i <;> cases j <;> rfl

/-- RDMSR of a register the part has. -/
theorem exec_rdInstr {m : Msr} {s : State} (h : presentOn s.part m = true) :
    exec m.rdInstr s = readMsr (maskOf m) (s.msrValue m) s := by
  cases m with
  | perfCtr u j => rw [exec_rdInstr_perfCtr, readCtr, ifPresent_of_present _ h]; rfl
  | perfEvtSel u j => rw [exec_rdInstr_perfEvtSel, readEvtSel, ifPresent_of_present _ h]; rfl
  | _ => rfl

/-- WRMSR of a writable register the part has. -/
theorem exec_wrInstr {m : Msr} {s : State} {v : Word64} (hm : m ≠ .cboConfig) (h : presentOn s.part m = true) :
    exec (m.wrInstr v) s = writeMsr (maskOf m) v s (s.pmu.writeMsr v m) := by
  cases m with
  | perfCtr u j => rw [exec_wrInstr_perfCtr, writeCtr, ifPresent_of_present _ h]; rfl
  | perfEvtSel u j => rw [exec_wrInstr_perfEvtSel, writeEvtSel, ifPresent_of_present _ h]; rfl
  | cboConfig => exact absurd rfl hm
  | _ => rfl

theorem ifPresent_of_absent {u : UnitId} {s : State} (k : State → Answer) (h : s.part.hasUnit u = false) :
    ifPresent u s k = .refused .cboNotPresent := if_neg (by simp [h])

/-- An access to a register the part lacks is refused. -/
theorem exec_absent {m : Msr} {s : State} (v : Word64) (h : presentOn s.part m = false) :
    exec m.rdInstr s = .refused .cboNotPresent ∧ exec (m.wrInstr v) s = .refused .cboNotPresent := by
  cases m with
  | perfCtr u j =>
    rw [exec_rdInstr_perfCtr, exec_wrInstr_perfCtr, readCtr, writeCtr]
    exact ⟨ifPresent_of_absent _ h, ifPresent_of_absent _ h⟩
  | perfEvtSel u j =>
    rw [exec_rdInstr_perfEvtSel, exec_wrInstr_perfEvtSel, readEvtSel, writeEvtSel]
    exact ⟨ifPresent_of_absent _ h, ifPresent_of_absent _ h⟩
  | _ => cases h

/-- A read that answers has a register on the part, and changes only the result and the draws. -/
theorem exec_rdInstr_next {m : Msr} {s t : State} (h : exec m.rdInstr s = .next t) :
    presentOn s.part m = true ∧ t = (s.giveResult (s.msrValue m ||| s.reservedBits (maskOf m))).drawn := by
  cases hp : presentOn s.part m with
  | false => rw [(exec_absent 0#64 hp).1] at h; cases h
  | true => rw [exec_rdInstr hp] at h; exact ⟨rfl, readMsr_next h⟩

/-- A write that answers has gone through to its register and nowhere else. -/
theorem exec_wrInstr_next {m : Msr} {s t : State} {v : Word64} (h : exec (m.wrInstr v) s = .next t) :
    m ≠ .cboConfig ∧ presentOn s.part m = true ∧ t = s.withPmu (s.pmu.writeMsr v m) := by
  have hm : m ≠ .cboConfig := by
    rintro rfl
    cases h
  cases hp : presentOn s.part m with
  | false => rw [(exec_absent v hp).2] at h; cases h
  | true => rw [exec_wrInstr hm hp] at h; exact ⟨hm, rfl, (writeMsr_next h).1⟩

/-! ### Event selections -/

/-- An event selection is one cycle of its counter, whose increment is computed from the state's cycle records. -/
theorem exec_decodeEvent {u : UnitId} {j : CtrIdx} {x : EvtSel} {i : Instr} (h : decodeEvent u j x = some i) :
    ∃ f : CboCycle → ArbCycle → Nat, ∀ s, exec i s = countEvent u j x.mode (f s.cboCycle s.arbCycle) s := by
  rcases u with _ | c
  · simp only [decodeEvent, decodeArbEvent] at h
    split at h
    · cases j with
      | k0 =>
        refine ⟨fun _ a => a.trkValid, fun s => ?_⟩
        simp only [Option.some.injEq] at h
        subst h
        split <;> rfl
      | k1 => cases h
    · simp only [arbEvents, List.lookup, Option.map_eq_some_iff] at h
      obtain ⟨mk, hm, rfl⟩ := h
      repeat' split at hm
      all_goals cases hm
      · exact ⟨fun _ a => allocCount a, fun _ => rfl⟩
      · exact ⟨fun _ a => writeAllocCount a, fun _ => rfl⟩
      · exact ⟨fun _ a => a.cohTrkAlloc, fun _ => rfl⟩
  · simp only [decodeEvent, cboEvents, List.lookup, Option.map_eq_some_iff] at h
    obtain ⟨mk, hm, rfl⟩ := h
    repeat' split at hm
    all_goals cases hm
    · exact ⟨fun c _ => snoopCount .xcore .miss c, fun _ => rfl⟩
    · exact ⟨fun c _ => snoopCount .eviction .miss c, fun _ => rfl⟩
    · exact ⟨fun c _ => snoopCount .xcore .hit c, fun _ => rfl⟩
    · exact ⟨fun c _ => snoopCount .xcore .hitm c, fun _ => rfl⟩
    · exact ⟨fun c _ => lookupCount .write [.m] c, fun _ => rfl⟩
    · exact ⟨fun c _ => lookupCount .any [.m] c, fun _ => rfl⟩
    · exact ⟨fun c _ => lookupCount .read [.i] c, fun _ => rfl⟩
    · exact ⟨fun c _ => lookupCount .any [.i] c, fun _ => rfl⟩
    · exact ⟨fun c _ => lookupCount .read [.m, .e, .s, .i] c, fun _ => rfl⟩
    · exact ⟨fun c _ => lookupCount .write [.m, .e, .s, .i] c, fun _ => rfl⟩
    · exact ⟨fun c _ => lookupCount .any [.m, .e, .s, .i] c, fun _ => rfl⟩
    · exact ⟨fun c _ => lookupCount .any [.e, .s] c, fun _ => rfl⟩
    · exact ⟨fun c _ => lookupCount .read [.e, .s] c, fun _ => rfl⟩
    · exact ⟨fun c _ => lookupCount .write [.e, .s] c, fun _ => rfl⟩

/-- The part of a tick that belongs to counter (u, j) is one cycle of it with some increment; a draw is spent first
where the code selects no listed event. -/
theorem tickCounter_next {u : UnitId} {j : CtrIdx} {s t : State} (h : tickCounter u j s = .next t) :
    s.part.hasUnit u = true ∧ ∃ inc,
      t = countSlot u j (s.pmu.slot u j).sel.mode inc s ∨ t = countSlot u j (s.pmu.slot u j).sel.mode inc s.drawn := by
  unfold tickCounter at h
  split at h
  next i hi =>
    obtain ⟨f, hf⟩ := exec_decodeEvent hi
    rw [hf] at h
    obtain ⟨hu, rfl⟩ := countEvent_next h
    exact ⟨hu, _, .inl rfl⟩
  next =>
    obtain ⟨hu, rfl⟩ := countEvent_next h
    exact ⟨hu, _, .inr rfl⟩

/-! ### Steps -/

/-- The state in which the chosen action runs: the schedule without it, or one more draw. -/
def State.taken (s : State) : State :=
  match s.schedule with
  | _ :: rest => { s with schedule := rest }
  | [] => s.drawn

/-- A step runs the chosen action. -/
theorem step_eq (s : State) : step s = runAction s.nextAction s.taken := by
  cases h : s.schedule <;> simp [step, runSchedule, State.nextAction, State.taken, h]

theorem step_of_schedule {s : State} {a : Action} {rest : List Action} (h : s.schedule = a :: rest) :
    step s = runAction a { s with schedule := rest } := by
  rw [step_eq, State.nextAction, State.taken, h]

@[simp] theorem State.taken_pmu (s : State) : s.taken.pmu = s.pmu := by
  unfold State.taken
  split <;> rfl
@[simp] theorem State.taken_part (s : State) : s.taken.part = s.part := by
  unfold State.taken
  split <;> rfl
@[simp] theorem State.taken_results (s : State) : s.taken.results = s.results := by
  unfold State.taken
  split <;> rfl
@[simp] theorem State.taken_delivered (s : State) : s.taken.delivered = s.delivered := by
  unfold State.taken
  split <;> rfl
@[simp] theorem State.taken_issuer (s : State) : s.taken.issuer = s.issuer := by
  unfold State.taken
  split <;> rfl

/-- An access that decodes to an instruction is a read or a write of a register, or a 32-bit read. -/
theorem toInstr_ok {bar : Nat} {a : Access} {i : Instr} (h : a.toInstr bar = .ok i) :
    (∃ m, i = Msr.rdInstr m) ∨ (∃ m v, i = Msr.wrInstr v m) ∨ (∃ k, i = .rdpmc k) ∨ (∃ c, i = ImcCtr.rdInstr c) ∨
      i = .cfgRd32Lo ∨ i = .cfgRd32Hi := by
  cases a with
  | rdmsr a =>
    simp only [Access.toInstr] at h
    split at h
    next m hm => cases h; exact .inl ⟨m, rfl⟩
    next => cases h
  | wrmsr a v =>
    simp only [Access.toInstr] at h
    split at h
    next m hm => cases h; exact .inr (.inl ⟨m, v, rfl⟩)
    next => cases h
  | rdpmc k => cases h; exact .inr (.inr (.inl ⟨k, rfl⟩))
  | memRead p n =>
    simp only [Access.toInstr] at h
    split at h
    next c hc => cases h; exact .inr (.inr (.inr (.inl ⟨c, rfl⟩)))
    next => cases h
  | memWrite p n => cases h
  | cfgRd32 b d f o =>
    simp only [Access.toInstr] at h
    split at h
    · cases h; exact .inr (.inr (.inr (.inr (.inl rfl))))
    · split at h
      · cases h; exact .inr (.inr (.inr (.inr (.inr rfl))))
      · cases h

/-- An access operation whose operands fit is read back from its record. -/
theorem decodeRecord_encode {a : Access} (h : Fits a) : decodeRecord a.encode = .ok a := by
  cases a <;>
    simp only [Access.encode, decodeRecord_bytes, accessOf, kindCfgRd32, kindWrmsr, kindRdmsr, kindRdpmc, kindMemRead,
      kindMemWrite]
  all_goals simp
  all_goals
    simp [Fits] at h
    omega

/-- A record that decodes to an instruction holds an access operation that does. -/
theorem decode_record_ok {bar : Nat} {bs : List Byte} {i : Instr} (h : decode bar .record bs = .ok i) :
    ∃ a, decodeRecord bs = .ok a ∧ a.toInstr bar = .ok i := by
  simp only [decode] at h
  split at h
  next a ha => exact ⟨a, ha, h⟩
  next => cases h

/-- An access operation that comes next runs the instruction it stands for, or is refused with the decoder's reason. -/
theorem step_of_comes {s : State} {n : CoreIdx} {a : Access} {rest : List Action}
    (h : s.comes n a rest) (hf : Fits a) :
    step s =
      match a.toInstr s.part.imcBar with
      | .ok i => exec i { s with schedule := rest, issuer := n }
      | .error r => .refused (.rejected r) := by
  obtain ⟨h1, h2, h3⟩ := h
  rw [step_of_schedule h3]
  refine (if_pos (by simp [State.canIssue, h1, h2])).trans ?_
  simp only [decode, decodeRecord_encode hf] <;> rfl

/-- Two byte ranges overlap exactly where they share a byte (R80). -/
theorem overlapsImc_iff (bar p n : Nat) : OverlapsImc bar p n ↔ imcOverlaps bar p n = true := by
  have key : ∀ o, (∃ a, p ≤ a ∧ a < p + n ∧ bar + o ≤ a ∧ a < bar + o + 4) ↔
      decide (max p (bar + o) < min (p + n) (bar + o + 4)) = true := by
    intro o
    rw [decide_eq_true_iff]
    constructor
    · rintro ⟨a, h1, h2, h3, h4⟩
      omega
    · intro h
      exact ⟨max p (bar + o), by omega, by omega, by omega, by omega⟩
  simp only [OverlapsImc, imcOverlaps, imcRows, ImcCtr.all, List.any_cons, List.any_nil, Bool.or_eq_true,
    List.mem_cons, List.not_mem_nil, or_false, exists_eq_or_imp, exists_eq_left, key, ImcCtr.offset, Bool.or_false]
  exact Iff.rfl

/-- What an access operation of a core can do: a core that can issue reads into its own result or writes one
register. -/
theorem runAccess_next {n : CoreIdx} {bytes : List Byte} {s t : State} (h : runAccess n bytes s = .next t) :
    s.canIssue n = true ∧ ∃ i, decode s.part.imcBar .record bytes = .ok i ∧
      ((∃ v, t = { s with issuer := n, results := s.results.put n v } ∨
          t = { s with issuer := n, results := s.results.put n v, draws := s.draws + 1 }) ∨
        ∃ m v, i = Msr.wrInstr v m ∧ m ≠ .cboConfig ∧ presentOn s.part m = true ∧
          t = { s with issuer := n, pmu := s.pmu.writeMsr v m }) := by
  obtain ⟨hc, hk⟩ := ifEnabled_next h
  refine ⟨hc, ?_⟩
  split at hk
  · rename_i i hi
    refine ⟨i, hi, ?_⟩
    obtain ⟨a, -, ha⟩ := decode_record_ok hi
    rcases toInstr_ok ha with ⟨m, rfl⟩ | ⟨m, v, rfl⟩ | ⟨k, rfl⟩ | ⟨c, rfl⟩ | rfl | rfl
    · obtain ⟨-, rfl⟩ := exec_rdInstr_next hk
      exact .inl ⟨_, .inr rfl⟩
    · obtain ⟨hm, hp, rfl⟩ := exec_wrInstr_next hk
      exact .inr ⟨m, v, rfl, hm, hp, rfl⟩
    · cases hk
    · refine .inl ⟨(s.pmu.imc.get c).setWidth 64, .inl ?_⟩
      cases c <;> cases hk <;> rfl
    · cases hk
      exact .inl ⟨_, .inl rfl⟩
    · cases hk
      exact .inl ⟨_, .inl rfl⟩
  · cases hk

/-- A tick of a unit is a cycle of its counter 0 and then one of its counter 1; a draw can come before each. -/
theorem tickUnit_next {u : UnitId} {s t : State} (h : tickUnit u s = .next t) :
    s.part.hasUnit u = true ∧ ∃ m n0 n1,
      (m = countSlot u .k0 (s.pmu.slot u .k0).sel.mode n0 s ∨
        m = countSlot u .k0 (s.pmu.slot u .k0).sel.mode n0 s.drawn) ∧
      (t = countSlot u .k1 (m.pmu.slot u .k1).sel.mode n1 m ∨
        t = countSlot u .k1 (m.pmu.slot u .k1).sel.mode n1 m.drawn) := by
  unfold tickUnit at h
  split at h
  · rename_i m hm
    obtain ⟨hu, n0, h0⟩ := tickCounter_next hm
    obtain ⟨-, n1, h1⟩ := tickCounter_next h
    exact ⟨hu, m, n0, n1, h0, h1⟩
  · cases h
  · cases h

end Sys2Proof.Machine
end

