-- ==== Sys2Proof/Laws/Counting.lean ====
section
/-! SUPPORT. A counting cycle has exactly the effect that the rules give it (`CycleEffect`), and what a tick does is
that of its two counters. -/

namespace Sys2Proof.Machine

open Sys2Proof

theorem threshold_eq_levelOf (mode : CountMode) (inc : Nat) : threshold inc mode.thr mode.inv = levelOf mode inc := by
  have h0 : (mode.thr = 0#5) ↔ mode.thr.toNat = 0 := by
    rw [← BitVec.toNat_inj]
    rfl
  unfold threshold levelOf
  simp only [h0]
  by_cases h : mode.thr.toNat = 0
  · simp [h]
  · by_cases h' : inc < mode.thr.toNat
    · simp [h, h', Nat.not_le.2 h']
    · simp [h, h', Nat.not_lt.1 h']

theorem countDelta_eq_advanceOf (mode : CountMode) (inc : Nat) (prev : Bool) :
    countDelta mode inc prev = advanceOf mode inc prev := by
  simp only [countDelta, edgeOrLevel, threshold_eq_levelOf, advanceOf]
  cases mode.edge <;> cases prev <;> by_cases h : levelOf mode inc = 0 <;> simp [h]

theorem overflowsIn_eq (s : State) (u : UnitId) (j : CtrIdx) (mode : CountMode) (inc : Nat) :
    s.overflowsIn u j mode inc = ((s.pmu.gctrl.en && mode.en) && decide (2 ^ 44 ≤ s.countSum u j mode inc)) := by
  rw [State.overflowsIn, State.countsIn, State.countSum, countDelta_eq_advanceOf]

/-- The status register after the overflow of a counter of `u` (R296). -/
theorem statusEffect_overflow (u : UnitId) (ovfEn : Bool) (s : State) (p : Pmu) (hp : p.gstat = s.pmu.gstat) :
    StatusEffect u (!s.part.ovfStatusGated || ovfEn) s
      (s.withPmu (overflow s.part.ovfStatusGated (.counter u) ovfEn p)) := by
  cases hg : s.part.ovfStatusGated <;> cases ovfEn <;> rcases u with _ | c <;>
    simp [StatusEffect, recordStatus, GlobalStatus.setBit, hp]

/-- One cycle of counter (u, j) has the effect that R190, R192 to R195 and R295 to R297 give it. -/
theorem countSlot_effect (u : UnitId) (j : CtrIdx) (mode : CountMode) (inc : Nat) (s : State) :
    CycleEffect u j mode inc s (countSlot u j mode inc s) := by
  obtain ⟨f1, f2, f3, f4, f5, f6, f7, f8, f9, f10, f11, f12, f13, f14⟩ := countSlot_frame u j mode inc s
  have hcase := countSlot_cases u j mode inc s
  refine ⟨⟨f13 u j, fun hc => ?_, fun hc => ?_⟩, ?_, ?_, fun k hk => f14 u k (by simp [hk]),
    ⟨fun v k hv => f14 v k (by simp [hv]), f1, f2, f3, f4, f5, f6, f10, f11, f12⟩, f9, f7, f8⟩
  · replace hc : (s.pmu.gctrl.en && mode.en) = true := hc
    rcases hcase with ⟨h, -⟩ | ⟨-, -, e⟩ | ⟨-, -, e⟩
    · rw [hc] at h
      cases h
    · rw [e, State.withPmu_pmu, State.counted, Pmu.slot_putSlot_same]
      exact ⟨by rw [BitVec.toNat_ofNat, State.countSum, countDelta_eq_advanceOf], by rw [threshold_eq_levelOf]⟩
    · rw [e, State.withPmu_pmu, overflow_slot, State.counted, Pmu.slot_putSlot_same]
      exact ⟨by rw [BitVec.toNat_ofNat, State.countSum, countDelta_eq_advanceOf], by rw [threshold_eq_levelOf]⟩
  · replace hc : (s.pmu.gctrl.en && mode.en) = false := hc
    rcases hcase with ⟨-, e⟩ | ⟨h, -, -⟩ | ⟨h, -, -⟩
    · rw [e, State.drawn_pmu, State.withPmu_pmu, Pmu.slot_putSlot_same]
    · rw [hc] at h
      cases h
    · rw [hc] at h
      cases h
  · rw [State.recordsIn, overflowsIn_eq]
    rcases hcase with ⟨h, e⟩ | ⟨h, hs, e⟩ | ⟨h, hs, e⟩
    · rw [e, h]
      simp [StatusEffect]
    · rw [e, decide_eq_false (Nat.not_le.2 hs), Bool.and_false, Bool.false_and]
      simp [StatusEffect, State.counted]
    · rw [e, h, decide_eq_true hs]
      exact statusEffect_overflow u mode.ovfEn s _ (Pmu.putSlot_gstat ..)
  · rw [State.requestsIn, overflowsIn_eq]
    rcases hcase with ⟨h, e⟩ | ⟨h, hs, e⟩ | ⟨h, hs, e⟩
    · rw [e, h]
      simp
    · rw [e, decide_eq_false (Nat.not_le.2 hs), Bool.and_false, Bool.false_and]
      simp [State.counted]
    · rw [e, h, decide_eq_true hs]
      simp [State.counted]

/-- An event of a present unit completes, with the effect of one cycle of its counter. -/
theorem countEvent_completes {u : UnitId} {s : State} (j : CtrIdx) (mode : CountMode) (inc : Nat)
    (h : s.part.hasUnit u = true) : ∃ t, countEvent u j mode inc s = .next t ∧ CycleEffect u j mode inc s t :=
  ⟨_, ifPresent_of_present _ h, countSlot_effect u j mode inc s⟩

/-- A draw changes nothing that the effect of a cycle speaks of. -/
theorem cycleEffect_drawn {u : UnitId} {j : CtrIdx} {mode : CountMode} {inc : Nat} {s t : State}
    (h : CycleEffect u j mode inc s.drawn t) : CycleEffect u j mode inc s t := h

/-- The two cycles of a tick together. -/
theorem tickEffect_of_cycles {u : UnitId} {n0 n1 : Nat} {s m t : State}
    (h0 : CycleEffect u .k0 (s.pmu.slot u .k0).sel.mode n0 s m)
    (h1 : CycleEffect u .k1 (s.pmu.slot u .k1).sel.mode n1 m t) : TickEffect u n0 n1 s t := by
  obtain ⟨c0, st0, p0, o0, ⟨x0, g0, a0, b0, d0, e0, i0, j0, k0, l0⟩, -⟩ := h0
  obtain ⟨c1, st1, p1, o1, ⟨x1, g1, a1, b1, d1, e1, i1, j1, k1, l1⟩, -⟩ := h1
  have hs0 : t.pmu.slot u .k0 = m.pmu.slot u .k0 := o1 .k0 (by decide)
  have hs1 : m.pmu.slot u .k1 = s.pmu.slot u .k1 := o0 .k1 (by decide)
  have hcn : ∀ mode, m.countsIn mode = s.countsIn mode := fun mode => by rw [State.countsIn, State.countsIn, g0]
  have hov : ∀ mode n, m.overflowsIn u .k1 mode n = s.overflowsIn u .k1 mode n := fun mode n => by
    rw [State.overflowsIn, State.overflowsIn, hcn, hs1]
  refine ⟨?_, ?_, ?_, ?_, ?_⟩
  · rw [CounterEffect, hs0]
    exact c0
  · rw [CounterEffect, hs1, hcn] at c1
    exact c1
  · rw [State.recordsIn, hov, i0] at st1
    obtain ⟨a, b, c⟩ := st0
    obtain ⟨a', b', c'⟩ := st1
    refine ⟨?_, ?_, c'.trans c⟩
    · rw [a', a, State.recordsIn, State.recordsIn, Bool.or_assoc, ← Bool.and_or_distrib_right]
    · rw [b', b, State.recordsIn, State.recordsIn, Bool.or_assoc, ← Bool.and_or_distrib_right]
  · rw [p1, p0, State.requestsIn, State.requestsIn, State.requestsIn, hov]
  · exact ⟨fun v k hv => (x1 v k hv).trans (x0 v k hv), g1.trans g0, a1.trans a0, b1.trans b0, d1.trans d0,
      e1.trans e0, i1.trans i0, j1.trans j0, k1.trans k0, l1.trans l0⟩

/-! ### The state in which an action runs, and a cycle of the fixed counter -/

@[simp] theorem State.taken_canIssue (s : State) (n : CoreIdx) : s.taken.canIssue n = s.canIssue n := by
  simp [State.canIssue]

theorem countFixed_results (s : State) : (countFixed s).results = s.results := by
  rcases countFixed_cases s with ⟨-, e⟩ | ⟨-, -, e⟩ | ⟨-, -, e⟩ <;> rw [e] <;> rfl

theorem countFixed_delivered (s : State) : (countFixed s).delivered = s.delivered := by
  rcases countFixed_cases s with ⟨-, e⟩ | ⟨-, -, e⟩ | ⟨-, -, e⟩ <;> rw [e] <;> rfl

theorem countFixed_part (s : State) : (countFixed s).part = s.part := by
  rcases countFixed_cases s with ⟨-, e⟩ | ⟨-, -, e⟩ | ⟨-, -, e⟩ <;> rw [e] <;> rfl

theorem countFixed_pmu_congr {s t : State} (hp : t.pmu = s.pmu) (hq : t.part = s.part) :
    (countFixed t).pmu = (countFixed s).pmu := by
  unfold countFixed
  rw [hp, hq]
  split
  · rfl
  · exact hp

/-! ### What a write leaves as it is (R85) -/

theorem Pmu.writeMsr_gctrl (p : Pmu) (v : Word64) {m : Msr} (h : m ≠ .globalCtrl) :
    (p.writeMsr v m).gctrl = p.gctrl := by
  cases m <;> simp_all [Pmu.writeMsr]

theorem Pmu.writeMsr_gstat (p : Pmu) (v : Word64) {m : Msr} (h : m ≠ .globalStatus) :
    (p.writeMsr v m).gstat = p.gstat := by
  cases m <;> simp_all [Pmu.writeMsr]

theorem Pmu.writeMsr_fctrl (p : Pmu) (v : Word64) {m : Msr} (h : m ≠ .fixedCtrl) :
    (p.writeMsr v m).fctrl = p.fctrl := by
  cases m <;> simp_all [Pmu.writeMsr]

theorem Pmu.writeMsr_fctr (p : Pmu) (v : Word64) {m : Msr} (h : m ≠ .fixedCtr) : (p.writeMsr v m).fctr = p.fctr := by
  cases m <;> simp_all [Pmu.writeMsr]

@[simp] theorem Pmu.writeMsr_imc (p : Pmu) (v : Word64) (m : Msr) : (p.writeMsr v m).imc = p.imc := by
  cases m <;> simp [Pmu.writeMsr]

@[simp] theorem Pmu.writeMsr_pmiPending (p : Pmu) (v : Word64) (m : Msr) :
    (p.writeMsr v m).pmiPending = p.pmiPending := by
  cases m <;> simp [Pmu.writeMsr]

@[simp] theorem Pmu.writeMsr_asleep (p : Pmu) (v : Word64) (m : Msr) : (p.writeMsr v m).asleep = p.asleep := by
  cases m <;> simp [Pmu.writeMsr]

theorem Pmu.writeMsr_slot (p : Pmu) (v : Word64) {m : Msr} {u : UnitId} {j : CtrIdx} (h1 : m ≠ .perfCtr u j)
    (h2 : m ≠ .perfEvtSel u j) : (p.writeMsr v m).slot u j = p.slot u j := by
  cases m with
  | perfCtr w k => exact Pmu.slot_putSlot_ne _ _ (by rintro ⟨rfl, rfl⟩; exact h1 rfl)
  | perfEvtSel w k => exact Pmu.slot_putSlot_ne _ _ (by rintro ⟨rfl, rfl⟩; exact h2 rfl)
  | _ => simp [Pmu.writeMsr]

theorem Pmu.writeMsr_sel (p : Pmu) (v : Word64) {m : Msr} {u : UnitId} {j : CtrIdx} (h : m ≠ .perfEvtSel u j) :
    ((p.writeMsr v m).slot u j).sel = (p.slot u j).sel := by
  by_cases hc : m = .perfCtr u j
  · subst hc
    simp [Pmu.writeMsr]
  · rw [Pmu.writeMsr_slot _ _ hc h]

theorem Pmu.writeMsr_ctr (p : Pmu) (v : Word64) {m : Msr} {u : UnitId} {j : CtrIdx} (h : m ≠ .perfCtr u j) :
    ((p.writeMsr v m).slot u j).ctr = (p.slot u j).ctr := by
  by_cases hc : m = .perfEvtSel u j
  · subst hc
    simp [Pmu.writeMsr]
  · rw [Pmu.writeMsr_slot _ _ h hc]

theorem Pmu.writeMsr_prevActive (p : Pmu) (v : Word64) (m : Msr) (u : UnitId) (j : CtrIdx) :
    ((p.writeMsr v m).slot u j).prevActive = (p.slot u j).prevActive := by
  by_cases h1 : m = .perfCtr u j
  · subst h1
    simp [Pmu.writeMsr]
  · by_cases h2 : m = .perfEvtSel u j
    · subst h2
      simp [Pmu.writeMsr]
    · rw [Pmu.writeMsr_slot _ _ h1 h2]

/-! ### Runs -/

theorem countSlot_schedule (u : UnitId) (j : CtrIdx) (mode : CountMode) (inc : Nat) (s : State) :
    (countSlot u j mode inc s).schedule = s.schedule := by
  obtain ⟨-, -, -, -, -, -, -, -, h, -⟩ := countSlot_frame u j mode inc s
  exact h

theorem tickUnit_schedule {u : UnitId} {s t : State} (h : tickUnit u s = .next t) : t.schedule = s.schedule := by
  obtain ⟨-, m, n0, n1, h0, h1⟩ := tickUnit_next h
  rcases h0 with rfl | rfl <;> rcases h1 with rfl | rfl <;> simp [countSlot_schedule]

/-- An action leaves the rest of the schedule to come. -/
theorem runAction_schedule {a : Action} {s t : State} (h : runAction a s = .next t) : t.schedule = s.schedule := by
  cases a with
  | access n bytes =>
    obtain ⟨-, i, -, hcase⟩ := runAccess_next h
    rcases hcase with ⟨v, rfl | rfl⟩ | ⟨m, v, -, -, -, rfl⟩ <;> rfl
  | tickFixed =>
    cases h
    rcases countFixed_cases s with ⟨-, e⟩ | ⟨-, -, e⟩ | ⟨-, -, e⟩ <;> rw [e] <;> rfl
  | tickArb c =>
    obtain ⟨-, hk⟩ := ifEnabled_next h
    exact (tickUnit_schedule hk).trans rfl
  | tickCbo i c =>
    obtain ⟨-, hk⟩ := ifEnabled_next h
    exact (tickUnit_schedule hk).trans rfl
  | imc c =>
    cases h
    rfl
  | pmi =>
    obtain ⟨-, hk⟩ := ifEnabled_next h
    cases hk
    rfl
  | sleep n =>
    obtain ⟨-, hk⟩ := ifEnabled_next h
    cases hk
    rfl
  | wake n =>
    obtain ⟨-, hk⟩ := ifEnabled_next h
    cases hk
    rfl

/-- A step takes the first action of the schedule off it. -/
theorem step_schedule {s t : State} {a : Action} {rest : List Action} (hs : s.schedule = a :: rest)
    (h : step s = .next t) : t.schedule = rest := by
  rw [step_of_schedule hs] at h
  exact runAction_schedule h

/-- A run of one step more is a step and then the run. -/
theorem runSteps_succ {k : Nat} {s t : State} :
    runSteps (k + 1) s = .next t ↔ ∃ m, step s = .next m ∧ runSteps k m = .next t := by
  simp only [runSteps]
  cases step s with
  | next m => exact ⟨fun h => ⟨m, rfl, h⟩, by rintro ⟨_, e, h⟩; cases e; exact h⟩
  | fault r => exact ⟨nofun, by rintro ⟨_, e, -⟩; cases e⟩
  | refused r => exact ⟨nofun, by rintro ⟨_, e, -⟩; cases e⟩

end Sys2Proof.Machine
end

