-- ==== Sys2Proof/Laws/Events.lean ====
section
/-! SUPPORT. The event-code map: a code selects an event exactly where the map lists it, the event's meaning is a
cycle of its counter with the listed increment, and a counter's part of a tick therefore always completes. -/

namespace Sys2Proof.Machine

open Sys2Proof

/-- A code is its two fields (R110). -/
theorem code_eq_iff (umask evt a b : BitVec 8) : umask ++ evt = a ++ b ↔ evt = b ∧ umask = a := by
  constructor
  · intro h
    have e := evtSelOf_append ⟨0#5, false, false, false, false⟩ umask evt
    rw [h, evtSelOf_append, EvtSel.mk.injEq] at e
    exact ⟨e.2.2.symm, e.2.1.symm⟩
  · rintro ⟨rfl, rfl⟩
    rfl

theorem code_beq (umask evt a b : BitVec 8) : (umask ++ evt == a ++ b) = ((evt, umask) == (b, a)) := by
  rw [Bool.eq_iff_iff, beq_iff_eq, beq_iff_eq, code_eq_iff, Prod.mk.injEq]

/-- The event of a listed CBo code. The code is compared by `decide`, the row found by `rfl`. -/
theorem decodeEvent_cbo_of_code {i : CboIdx} {j : CtrIdx} {mode : CountMode} {umask evt : BitVec 8} (code : BitVec 16)
    {mk : CboIdx → CtrIdx → CountMode → Instr} (hc : umask ++ evt = code) (hl : cboEvents.lookup code = some mk) :
    decodeEvent (.cbo i) j { mode := mode, umask := umask, evt := evt } = some (mk i j mode) := by
  rw [decodeEvent, hc, hl]
  rfl

/-- The event of a listed ARB code that either counter may use. -/
theorem decodeEvent_arb_of_code {j : CtrIdx} {mode : CountMode} {umask evt : BitVec 8} (code : BitVec 16)
    {mk : CtrIdx → CountMode → Instr} (hc : umask ++ evt = code) (h : code ≠ 0x0180#16)
    (hl : arbEvents.lookup code = some mk) :
    decodeEvent .arb j { mode := mode, umask := umask, evt := evt } = some (mk j mode) := by
  rw [decodeEvent, decodeArbEvent.eq_def, hc, if_neg h, hl]
  rfl

/-- The event of code 0x0180, by the counter and THR (R113, R245). -/
theorem decodeEvent_arb_occupancy (j : CtrIdx) (mode : CountMode) :
    decodeEvent .arb j { mode := mode, umask := 0x01#8, evt := 0x80#8 } =
      match j with
      | .k0 =>
        some (if mode.thr = 1#5 then .arbTrkOccupancyCyclesWithAnyRequest mode else .arbTrkOccupancyAll mode)
      | .k1 => none := by
  rw [decodeEvent, decodeArbEvent.eq_def, if_pos (show 0x01#8 ++ 0x80#8 = 0x0180#16 by decide)] <;> rfl

/-- A count of lookups is known from which lookups it takes. -/
theorem lookupCount_eq {req : ReqSel} {states : List Mesi} {c : CboCycle} {p : Lookup → Bool}
    (h : ∀ r st, (req.admits r && states.contains st) = p ⟨r, st⟩) :
    lookupCount req states c = c.lookups.countP p := by
  unfold lookupCount
  congr 1
  funext l
  exact h l.req l.state

/-- The count that takes every lookup is their number (R224). -/
theorem lookupCount_all (c : CboCycle) : lookupCount .any [.m, .e, .s, .i] c = c.lookups.length := by
  rw [lookupCount_eq (p := fun _ => true) (by intro r st; cases r <;> cases st <;> rfl)]
  simp

/-- A code in a CBo's event select is unlisted, or it selects the event whose increment the map lists. -/
theorem decodeEvent_cbo_cases (i : CboIdx) (j : CtrIdx) (x : EvtSel) (c : CboCycle) (a : ArbCycle) :
    (decodeEvent (.cbo i) j x = none ∧ listedIncrement (.cbo i) j x c a = none) ∨
    ∃ e n, decodeEvent (.cbo i) j x = some e ∧ listedIncrement (.cbo i) j x c a = some n ∧
      ∀ s : State, s.cboCycle = c → exec e s = countEvent (.cbo i) j x.mode n s := by
  simp only [decodeEvent, cboEvents, listedIncrement, cboIncrements, List.lookup]
  rw [show 0x4122#16 = 0x41#8 ++ 0x22#8 from rfl, show 0x8122#16 = 0x81#8 ++ 0x22#8 from rfl,
    show 0x4422#16 = 0x44#8 ++ 0x22#8 from rfl, show 0x4822#16 = 0x48#8 ++ 0x22#8 from rfl,
    show 0x2134#16 = 0x21#8 ++ 0x34#8 from rfl, show 0x8134#16 = 0x81#8 ++ 0x34#8 from rfl,
    show 0x1834#16 = 0x18#8 ++ 0x34#8 from rfl, show 0x8834#16 = 0x88#8 ++ 0x34#8 from rfl,
    show 0x1F34#16 = 0x1F#8 ++ 0x34#8 from rfl, show 0x2F34#16 = 0x2F#8 ++ 0x34#8 from rfl,
    show 0x8F34#16 = 0x8F#8 ++ 0x34#8 from rfl, show 0x8634#16 = 0x86#8 ++ 0x34#8 from rfl,
    show 0x1634#16 = 0x16#8 ++ 0x34#8 from rfl, show 0x2634#16 = 0x26#8 ++ 0x34#8 from rfl]
  simp only [code_beq]
  cases (x.evt, x.umask) == (0x22#8, 0x41#8)
  case true =>
    exact .inr ⟨_, _, rfl, rfl, fun s h => by subst h; rfl⟩
  cases (x.evt, x.umask) == (0x22#8, 0x81#8)
  case true =>
    exact .inr ⟨_, _, rfl, rfl, fun s h => by subst h; rfl⟩
  cases (x.evt, x.umask) == (0x22#8, 0x44#8)
  case true =>
    exact .inr ⟨_, _, rfl, rfl, fun s h => by subst h; rfl⟩
  cases (x.evt, x.umask) == (0x22#8, 0x48#8)
  case true =>
    exact .inr ⟨_, _, rfl, rfl, fun s h => by subst h; rfl⟩
  cases (x.evt, x.umask) == (0x34#8, 0x21#8)
  case true =>
    exact .inr ⟨_, _, rfl, rfl, fun s h => by
      subst h
      exact congrArg (fun n => countEvent (.cbo i) j x.mode n s)
        (lookupCount_eq (by intro r st; cases r <;> cases st <;> rfl))⟩
  cases (x.evt, x.umask) == (0x34#8, 0x81#8)
  case true =>
    exact .inr ⟨_, _, rfl, rfl, fun s h => by
      subst h
      exact congrArg (fun n => countEvent (.cbo i) j x.mode n s)
        (lookupCount_eq (by intro r st; cases r <;> cases st <;> rfl))⟩
  cases (x.evt, x.umask) == (0x34#8, 0x18#8)
  case true =>
    exact .inr ⟨_, _, rfl, rfl, fun s h => by
      subst h
      exact congrArg (fun n => countEvent (.cbo i) j x.mode n s)
        (lookupCount_eq (by intro r st; cases r <;> cases st <;> rfl))⟩
  cases (x.evt, x.umask) == (0x34#8, 0x88#8)
  case true =>
    exact .inr ⟨_, _, rfl, rfl, fun s h => by
      subst h
      exact congrArg (fun n => countEvent (.cbo i) j x.mode n s)
        (lookupCount_eq (by intro r st; cases r <;> cases st <;> rfl))⟩
  cases (x.evt, x.umask) == (0x34#8, 0x1F#8)
  case true =>
    exact .inr ⟨_, _, rfl, rfl, fun s h => by
      subst h
      exact congrArg (fun n => countEvent (.cbo i) j x.mode n s)
        (lookupCount_eq (by intro r st; cases r <;> cases st <;> rfl))⟩
  cases (x.evt, x.umask) == (0x34#8, 0x2F#8)
  case true =>
    exact .inr ⟨_, _, rfl, rfl, fun s h => by
      subst h
      exact congrArg (fun n => countEvent (.cbo i) j x.mode n s)
        (lookupCount_eq (by intro r st; cases r <;> cases st <;> rfl))⟩
  cases (x.evt, x.umask) == (0x34#8, 0x8F#8)
  case true =>
    exact .inr ⟨_, _, rfl, rfl, fun s h => by
      subst h
      exact congrArg (fun n => countEvent (.cbo i) j x.mode n s) (lookupCount_all _)⟩
  cases (x.evt, x.umask) == (0x34#8, 0x86#8)
  case true =>
    exact .inr ⟨_, _, rfl, rfl, fun s h => by
      subst h
      exact congrArg (fun n => countEvent (.cbo i) j x.mode n s)
        (lookupCount_eq (by intro r st; cases r <;> cases st <;> rfl))⟩
  cases (x.evt, x.umask) == (0x34#8, 0x16#8)
  case true =>
    exact .inr ⟨_, _, rfl, rfl, fun s h => by
      subst h
      exact congrArg (fun n => countEvent (.cbo i) j x.mode n s)
        (lookupCount_eq (by intro r st; cases r <;> cases st <;> rfl))⟩
  cases (x.evt, x.umask) == (0x34#8, 0x26#8)
  case true =>
    exact .inr ⟨_, _, rfl, rfl, fun s h => by
      subst h
      exact congrArg (fun n => countEvent (.cbo i) j x.mode n s)
        (lookupCount_eq (by intro r st; cases r <;> cases st <;> rfl))⟩
  exact .inl ⟨rfl, rfl⟩

/-- A code in an ARB event select is unlisted or misplaced, or it selects the event whose increment the map lists. -/
theorem decodeEvent_arb_cases (j : CtrIdx) (x : EvtSel) (c : CboCycle) (a : ArbCycle) :
    (decodeEvent .arb j x = none ∧ listedIncrement .arb j x c a = none) ∨
    ∃ e n, decodeEvent .arb j x = some e ∧ listedIncrement .arb j x c a = some n ∧
      ∀ s : State, s.arbCycle = a → exec e s = countEvent .arb j x.mode n s := by
  simp only [decodeEvent, decodeArbEvent, listedIncrement]
  have hcode : x.umask ++ x.evt = 0x0180#16 ↔ x.evt = 0x80#8 ∧ x.umask = 0x01#8 :=
    code_eq_iff x.umask x.evt 0x01#8 0x80#8
  by_cases h : x.evt = 0x80#8 ∧ x.umask = 0x01#8
  · cases j with
    | k0 =>
      right
      refine ⟨_, _, if_pos (hcode.2 h), if_pos ⟨h.1, h.2, rfl⟩, ?_⟩
      rintro s rfl
      split <;> rfl
    | k1 => exact .inl ⟨if_pos (hcode.2 h), by rw [h.1, h.2]; rfl⟩
  · rw [if_neg (mt hcode.1 h), if_neg fun k => h ⟨k.1, k.2.1⟩]
    simp only [arbEvents, arbIncrements, List.lookup]
    rw [show 0x0181#16 = 0x01#8 ++ 0x81#8 from rfl, show 0x2081#16 = 0x20#8 ++ 0x81#8 from rfl,
      show 0x0184#16 = 0x01#8 ++ 0x84#8 from rfl]
    simp only [code_beq]
    cases (x.evt, x.umask) == (0x81#8, 0x01#8)
    case true => exact .inr ⟨_, _, rfl, rfl, fun s h => by subst h; rfl⟩
    cases (x.evt, x.umask) == (0x81#8, 0x20#8)
    case true => exact .inr ⟨_, _, rfl, rfl, fun s h => by subst h; rfl⟩
    cases (x.evt, x.umask) == (0x84#8, 0x01#8)
    case true => exact .inr ⟨_, _, rfl, rfl, fun s h => by subst h; rfl⟩
    exact .inl ⟨rfl, rfl⟩

/-- A code is unlisted or misplaced, or it selects the event whose increment the map lists. -/
theorem decodeEvent_cases (u : UnitId) (j : CtrIdx) (x : EvtSel) (c : CboCycle) (a : ArbCycle) :
    (decodeEvent u j x = none ∧ listedIncrement u j x c a = none) ∨
    ∃ e n, decodeEvent u j x = some e ∧ listedIncrement u j x c a = some n ∧
      ∀ s : State, (u ≠ .arb → s.cboCycle = c) → (u = .arb → s.arbCycle = a) →
        exec e s = countEvent u j x.mode n s := by
  rcases u with _ | i
  · rcases decodeEvent_arb_cases j x c a with h | ⟨e, n, h1, h2, h3⟩
    · exact .inl h
    · exact .inr ⟨e, n, h1, h2, fun s _ ha => h3 s (ha rfl)⟩
  · rcases decodeEvent_cbo_cases i j x c a with h | ⟨e, n, h1, h2, h3⟩
    · exact .inl h
    · exact .inr ⟨e, n, h1, h2, fun s hc _ => h3 s (hc (by simp))⟩

/-- A free increment keeps MAX_INC (R191). -/
theorem Part.freeInc_le {p : Part} {m : Nat} (h : p.maxInc = some m) (n : Nat) : p.freeInc n ≤ m := by
  simp only [Part.freeInc, h]
  omega

/-- A listed event delivers its increment and no other. -/
theorem State.mayReceive_of_listed {s : State} {u : UnitId} {j : CtrIdx} {c : CboCycle} {a : ArbCycle} {n k : Nat}
    (h : s.mayReceive u j c a n) (hk : listedIncrement u j (s.pmu.slot u j).sel c a = some k) : n = k := by
  rw [State.mayReceive, hk] at h
  exact h

/-- An unlisted or misplaced event delivers some number within MAX_INC. -/
theorem State.mayReceive_of_unlisted {s : State} {u : UnitId} {j : CtrIdx} {c : CboCycle} {a : ArbCycle} {n m : Nat}
    (h : s.mayReceive u j c a n) (hk : listedIncrement u j (s.pmu.slot u j).sel c a = none)
    (hm : s.part.maxInc = some m) : n ≤ m := by
  rw [State.mayReceive, hk] at h
  exact h m hm

/-- The part of a tick that belongs to counter (u, j) completes on a present unit: one cycle with an increment that
the counter can receive. -/
theorem tickCounter_completes {u : UnitId} {s : State} (j : CtrIdx) (c : CboCycle) (a : ArbCycle)
    (hu : s.part.hasUnit u = true) (hc : u ≠ .arb → s.cboCycle = c) (ha : u = .arb → s.arbCycle = a) :
    ∃ n t, tickCounter u j s = .next t ∧ CycleEffect u j (s.pmu.slot u j).sel.mode n s t ∧
      s.mayReceive u j c a n := by
  unfold tickCounter State.mayReceive
  rcases decodeEvent_cases u j (s.pmu.slot u j).sel c a with ⟨h1, h2⟩ | ⟨e, n, h1, h2, h3⟩
  · rw [h1, h2]
    obtain ⟨t, ht, he⟩ :=
      countEvent_completes j (s.pmu.slot u j).sel.mode (s.part.freeInc s.draws) (s := s.drawn) hu
    exact ⟨_, t, ht, cycleEffect_drawn he, fun m hm => Part.freeInc_le hm _⟩
  · rw [h1, h2]
    obtain ⟨t, ht, he⟩ := countEvent_completes j (s.pmu.slot u j).sel.mode n hu
    exact ⟨n, t, (h3 s hc ha).trans ht, he, rfl⟩

end Sys2Proof.Machine
end

