-- ==== Sys2Proof/Laws/PerInstr.lean ====
section
/-! SUPPORT. The statements made for every instruction, one lemma for each constructor. EncodingLength: an operation
record has 16 bytes (log 8), the content of an event-select register 8, the fixed counter's label 2. -/

namespace Sys2Proof.Laws.EncodingLength

open Sys2Proof

/-- How many bytes stand in a place. -/
def placeBytes : Place → Nat
  | .record => 16
  | .slot _ _ => 8
  | .fixed => 2

/-- An instruction's encoding fills its place. -/
def Statement (i : Instr) : Prop := ∀ bar, (encode bar i).2.length = placeBytes (encode bar i).1

theorem rdmsrGlobalCtrl : Statement .rdmsrGlobalCtrl := fun _ => rfl
theorem wrmsrGlobalCtrl (v : Word64) : Statement (.wrmsrGlobalCtrl v) := fun _ => rfl
theorem rdmsrGlobalStatus : Statement .rdmsrGlobalStatus := fun _ => rfl
theorem wrmsrGlobalStatus (v : Word64) : Statement (.wrmsrGlobalStatus v) := fun _ => rfl
theorem rdmsrFixedCtrl : Statement .rdmsrFixedCtrl := fun _ => rfl
theorem wrmsrFixedCtrl (v : Word64) : Statement (.wrmsrFixedCtrl v) := fun _ => rfl
theorem rdmsrFixedCtr : Statement .rdmsrFixedCtr := fun _ => rfl
theorem wrmsrFixedCtr (v : Word64) : Statement (.wrmsrFixedCtr v) := fun _ => rfl
theorem rdmsrCboConfig : Statement .rdmsrCboConfig := fun _ => rfl
theorem wrmsrCboConfig (v : Word64) : Statement (.wrmsrCboConfig v) := fun _ => rfl
theorem rdmsrArbPerfCtr0 : Statement .rdmsrArbPerfCtr0 := fun _ => rfl
theorem wrmsrArbPerfCtr0 (v : Word64) : Statement (.wrmsrArbPerfCtr0 v) := fun _ => rfl
theorem rdmsrArbPerfCtr1 : Statement .rdmsrArbPerfCtr1 := fun _ => rfl
theorem wrmsrArbPerfCtr1 (v : Word64) : Statement (.wrmsrArbPerfCtr1 v) := fun _ => rfl
theorem rdmsrArbPerfEvtSel0 : Statement .rdmsrArbPerfEvtSel0 := fun _ => rfl
theorem wrmsrArbPerfEvtSel0 (v : Word64) : Statement (.wrmsrArbPerfEvtSel0 v) := fun _ => rfl
theorem rdmsrArbPerfEvtSel1 : Statement .rdmsrArbPerfEvtSel1 := fun _ => rfl
theorem wrmsrArbPerfEvtSel1 (v : Word64) : Statement (.wrmsrArbPerfEvtSel1 v) := fun _ => rfl
theorem rdmsrCbo0PerfEvtSel0 : Statement .rdmsrCbo0PerfEvtSel0 := fun _ => rfl
theorem wrmsrCbo0PerfEvtSel0 (v : Word64) : Statement (.wrmsrCbo0PerfEvtSel0 v) := fun _ => rfl
theorem rdmsrCbo0PerfEvtSel1 : Statement .rdmsrCbo0PerfEvtSel1 := fun _ => rfl
theorem wrmsrCbo0PerfEvtSel1 (v : Word64) : Statement (.wrmsrCbo0PerfEvtSel1 v) := fun _ => rfl
theorem rdmsrCbo0PerfCtr0 : Statement .rdmsrCbo0PerfCtr0 := fun _ => rfl
theorem wrmsrCbo0PerfCtr0 (v : Word64) : Statement (.wrmsrCbo0PerfCtr0 v) := fun _ => rfl
theorem rdmsrCbo0PerfCtr1 : Statement .rdmsrCbo0PerfCtr1 := fun _ => rfl
theorem wrmsrCbo0PerfCtr1 (v : Word64) : Statement (.wrmsrCbo0PerfCtr1 v) := fun _ => rfl
theorem rdmsrCbo1PerfEvtSel0 : Statement .rdmsrCbo1PerfEvtSel0 := fun _ => rfl
theorem wrmsrCbo1PerfEvtSel0 (v : Word64) : Statement (.wrmsrCbo1PerfEvtSel0 v) := fun _ => rfl
theorem rdmsrCbo1PerfEvtSel1 : Statement .rdmsrCbo1PerfEvtSel1 := fun _ => rfl
theorem wrmsrCbo1PerfEvtSel1 (v : Word64) : Statement (.wrmsrCbo1PerfEvtSel1 v) := fun _ => rfl
theorem rdmsrCbo1PerfCtr0 : Statement .rdmsrCbo1PerfCtr0 := fun _ => rfl
theorem wrmsrCbo1PerfCtr0 (v : Word64) : Statement (.wrmsrCbo1PerfCtr0 v) := fun _ => rfl
theorem rdmsrCbo1PerfCtr1 : Statement .rdmsrCbo1PerfCtr1 := fun _ => rfl
theorem wrmsrCbo1PerfCtr1 (v : Word64) : Statement (.wrmsrCbo1PerfCtr1 v) := fun _ => rfl
theorem rdmsrCbo2PerfEvtSel0 : Statement .rdmsrCbo2PerfEvtSel0 := fun _ => rfl
theorem wrmsrCbo2PerfEvtSel0 (v : Word64) : Statement (.wrmsrCbo2PerfEvtSel0 v) := fun _ => rfl
theorem rdmsrCbo2PerfEvtSel1 : Statement .rdmsrCbo2PerfEvtSel1 := fun _ => rfl
theorem wrmsrCbo2PerfEvtSel1 (v : Word64) : Statement (.wrmsrCbo2PerfEvtSel1 v) := fun _ => rfl
theorem rdmsrCbo2PerfCtr0 : Statement .rdmsrCbo2PerfCtr0 := fun _ => rfl
theorem wrmsrCbo2PerfCtr0 (v : Word64) : Statement (.wrmsrCbo2PerfCtr0 v) := fun _ => rfl
theorem rdmsrCbo2PerfCtr1 : Statement .rdmsrCbo2PerfCtr1 := fun _ => rfl
theorem wrmsrCbo2PerfCtr1 (v : Word64) : Statement (.wrmsrCbo2PerfCtr1 v) := fun _ => rfl
theorem rdmsrCbo3PerfEvtSel0 : Statement .rdmsrCbo3PerfEvtSel0 := fun _ => rfl
theorem wrmsrCbo3PerfEvtSel0 (v : Word64) : Statement (.wrmsrCbo3PerfEvtSel0 v) := fun _ => rfl
theorem rdmsrCbo3PerfEvtSel1 : Statement .rdmsrCbo3PerfEvtSel1 := fun _ => rfl
theorem wrmsrCbo3PerfEvtSel1 (v : Word64) : Statement (.wrmsrCbo3PerfEvtSel1 v) := fun _ => rfl
theorem rdmsrCbo3PerfCtr0 : Statement .rdmsrCbo3PerfCtr0 := fun _ => rfl
theorem wrmsrCbo3PerfCtr0 (v : Word64) : Statement (.wrmsrCbo3PerfCtr0 v) := fun _ => rfl
theorem rdmsrCbo3PerfCtr1 : Statement .rdmsrCbo3PerfCtr1 := fun _ => rfl
theorem wrmsrCbo3PerfCtr1 (v : Word64) : Statement (.wrmsrCbo3PerfCtr1 v) := fun _ => rfl
theorem rdpmc (index : Word32) : Statement (.rdpmc index) := fun _ => rfl
theorem mmioRd32DramGtRequests : Statement .mmioRd32DramGtRequests := fun _ => rfl
theorem mmioRd32DramIaRequests : Statement .mmioRd32DramIaRequests := fun _ => rfl
theorem mmioRd32DramIoRequests : Statement .mmioRd32DramIoRequests := fun _ => rfl
theorem mmioRd32DramDataReads : Statement .mmioRd32DramDataReads := fun _ => rfl
theorem mmioRd32DramDataWrites : Statement .mmioRd32DramDataWrites := fun _ => rfl
theorem cfgRd32Lo : Statement .cfgRd32Lo := fun _ => rfl
theorem cfgRd32Hi : Statement .cfgRd32Hi := fun _ => rfl
theorem xsnpResponseMissXcore (c : CboIdx) (j : CtrIdx) (mode : CountMode) :
    Statement (.xsnpResponseMissXcore c j mode) :=
  fun _ => rfl
theorem xsnpResponseMissEviction (c : CboIdx) (j : CtrIdx) (mode : CountMode) :
    Statement (.xsnpResponseMissEviction c j mode) :=
  fun _ => rfl
theorem xsnpResponseHitXcore (c : CboIdx) (j : CtrIdx) (mode : CountMode) :
    Statement (.xsnpResponseHitXcore c j mode) :=
  fun _ => rfl
theorem xsnpResponseHitmXcore (c : CboIdx) (j : CtrIdx) (mode : CountMode) :
    Statement (.xsnpResponseHitmXcore c j mode) :=
  fun _ => rfl
theorem cacheLookupWriteM (c : CboIdx) (j : CtrIdx) (mode : CountMode) : Statement (.cacheLookupWriteM c j mode) :=
  fun _ => rfl
theorem cacheLookupAnyM (c : CboIdx) (j : CtrIdx) (mode : CountMode) : Statement (.cacheLookupAnyM c j mode) :=
  fun _ => rfl
theorem cacheLookupReadI (c : CboIdx) (j : CtrIdx) (mode : CountMode) : Statement (.cacheLookupReadI c j mode) :=
  fun _ => rfl
theorem cacheLookupAnyI (c : CboIdx) (j : CtrIdx) (mode : CountMode) : Statement (.cacheLookupAnyI c j mode) :=
  fun _ => rfl
theorem cacheLookupReadMesi (c : CboIdx) (j : CtrIdx) (mode : CountMode) : Statement (.cacheLookupReadMesi c j mode) :=
  fun _ => rfl
theorem cacheLookupWriteMesi (c : CboIdx) (j : CtrIdx) (mode : CountMode) :
    Statement (.cacheLookupWriteMesi c j mode) :=
  fun _ => rfl
theorem cacheLookupAnyMesi (c : CboIdx) (j : CtrIdx) (mode : CountMode) : Statement (.cacheLookupAnyMesi c j mode) :=
  fun _ => rfl
theorem cacheLookupAnyEs (c : CboIdx) (j : CtrIdx) (mode : CountMode) : Statement (.cacheLookupAnyEs c j mode) :=
  fun _ => rfl
theorem cacheLookupReadEs (c : CboIdx) (j : CtrIdx) (mode : CountMode) : Statement (.cacheLookupReadEs c j mode) :=
  fun _ => rfl
theorem cacheLookupWriteEs (c : CboIdx) (j : CtrIdx) (mode : CountMode) : Statement (.cacheLookupWriteEs c j mode) :=
  fun _ => rfl
theorem arbTrkOccupancyAll (mode : CountMode) : Statement (.arbTrkOccupancyAll mode) := fun _ => rfl
theorem arbTrkRequestsAll (j : CtrIdx) (mode : CountMode) : Statement (.arbTrkRequestsAll j mode) := fun _ => rfl
theorem arbTrkRequestsWrites (j : CtrIdx) (mode : CountMode) : Statement (.arbTrkRequestsWrites j mode) := fun _ => rfl
theorem arbCohTrkRequestsAll (j : CtrIdx) (mode : CountMode) : Statement (.arbCohTrkRequestsAll j mode) := fun _ => rfl
theorem arbTrkOccupancyCyclesWithAnyRequest (mode : CountMode) :
    Statement (.arbTrkOccupancyCyclesWithAnyRequest mode) :=
  fun _ => rfl
theorem clockSocket : Statement .clockSocket := fun _ => rfl

end Sys2Proof.Laws.EncodingLength
end

