-- ==== Sys2Proof/Laws/Steps.lean ====
section
/-! SUPPORT. A tick that answers has the effect of R190 with the increments of its own record, and everything a step can
do, by the agent that moved. -/

namespace Sys2Proof.Machine

open Sys2Proof

/-! ### Ticks -/

/-- The part of a tick that belongs to counter (u, j) is one cycle of it, with an increment it can receive. -/
theorem tickCounter_effect {u : UnitId} {j : CtrIdx} {s t : State} (h : tickCounter u j s = .next t) (c : CboCycle)
    (a : ArbCycle) (hc : u ≠ .arb → s.cboCycle = c) (ha : u = .arb → s.arbCycle = a) :
    s.part.hasUnit u = true ∧ ∃ n, s.mayReceive u j c a n ∧ CycleEffect u j (s.pmu.slot u j).sel.mode n s t := by
  have hu := (tickCounter_next h).1
  obtain ⟨n, t', ht, he, hn⟩ := tickCounter_completes j c a hu hc ha
  cases h.symm.trans ht
  exact ⟨hu, n, hn, he⟩

/-- A tick of a unit has the effect of R190, with an increment that each counter can receive from the tick's record. -/
theorem tickUnit_effect {u : UnitId} {s t : State} (h : tickUnit u s = .next t) (c : CboCycle) (a : ArbCycle)
    (hc : u ≠ .arb → s.cboCycle = c) (ha : u = .arb → s.arbCycle = a) :
    s.part.hasUnit u = true ∧
      ∃ n0 n1, s.mayReceive u .k0 c a n0 ∧ s.mayReceive u .k1 c a n1 ∧ TickEffect u n0 n1 s t := by
  unfold tickUnit at h
  split at h
  next m hm =>
    obtain ⟨hu, n0, h0, e0⟩ := tickCounter_effect hm c a hc ha
    obtain ⟨-, -, -, hk, ⟨-, -, -, -, -, -, hpart, -⟩, -, hcbo, harb⟩ := id e0
    obtain ⟨-, n1, h1, e1⟩ := tickCounter_effect h c a (hcbo ▸ hc) (harb ▸ ha)
    rw [State.mayReceive, hk .k1 (by decide), hpart] at h1
    rw [hk .k1 (by decide)] at e1
    exact ⟨hu, n0, n1, h0, h1, tickEffect_of_cycles e0 e1⟩
  all_goals cases h

/-! ### Everything a step can do -/

/-- What a step that answers has done, by the agent that moved (R10). -/
inductive StepCase (s t : State) : Prop where
  | read (n : CoreIdx) (v : Word64) (he : s.issuesAccess) (hc : s.canIssue n = true) (hp : t.pmu = s.pmu)
      (hr : t.results = s.results.put n v) (hd : t.delivered = s.delivered) (ht : t.part = s.part)
  | write (m : Msr) (v : Word64) (hi : s.issues (m.wrInstr v)) (hm : m ≠ .cboConfig)
      (hpr : presentOn s.part m = true) (hp : t.pmu = s.pmu.writeMsr v m)
      (hr : t.results = s.results) (hd : t.delivered = s.delivered) (ht : t.part = s.part)
  | fixed (ha : s.nextAction = .tickFixed) (hp : t.pmu = (countFixed s).pmu) (hr : t.results = s.results)
      (hd : t.delivered = s.delivered) (ht : t.part = s.part)
  | unit (u : UnitId) (c : CboCycle) (a : ArbCycle) (n0 n1 : Nat) (ha : s.nextAction = tickOf u c a)
      (hu : s.part.hasUnit u = true) (h0 : s.mayReceive u .k0 c a n0) (h1 : s.mayReceive u .k1 c a n1)
      (he : TickEffect u n0 n1 s t)
  | imc (c : ImcCtr) (ha : s.nextAction = .imc c) (hp : t.pmu = (countImc c s).pmu) (hr : t.results = s.results)
      (hd : t.delivered = s.delivered) (ht : t.part = s.part)
  | pmi (ha : s.nextAction = .pmi) (hpend : s.pmu.pmiPending = true) (hp : t.pmu = (deliverPmi s).pmu)
      (hr : t.results = s.results) (hd : t.delivered = (deliverPmi s).delivered) (ht : t.part = s.part)
  | sleep (n : CoreIdx) (b : Bool) (ha : s.nextAction = if b then .sleep n else .wake n)
      (hc : s.part.hasCore n = true) (hp : t.pmu = { s.pmu with asleep := s.pmu.asleep.put n b })
      (hr : t.results = s.results) (hd : t.delivered = s.delivered) (ht : t.part = s.part)

/-- Everything a step can do. -/
theorem step_cases {s t : State} (h : step s = .next t) : StepCase s t := by
  rw [step_eq] at h
  have hpmu := s.taken_pmu
  have hpart := s.taken_part
  generalize ha : s.nextAction = a at h
  cases a with
  | access n bytes =>
    obtain ⟨hc, i, hi, hcase⟩ := runAccess_next h
    rw [hpart] at hi
    rcases hcase with ⟨v, rfl | rfl⟩ | ⟨m, v, rfl, hm, hpr, rfl⟩
    · exact .read n v ⟨n, bytes, ha⟩ (by simpa using hc) hpmu (by simp) (by simp) hpart
    · exact .read n v ⟨n, bytes, ha⟩ (by simpa using hc) hpmu (by simp) (by simp) hpart
    · rw [hpart] at hpr
      exact .write m v ⟨n, bytes, ha, hi⟩ hm hpr (by simp) (by simp) (by simp) hpart
  | tickFixed =>
    cases h
    exact .fixed ha (countFixed_pmu_congr hpmu hpart) (by rw [countFixed_results]; simp)
      (by rw [countFixed_delivered]; simp) (by rw [countFixed_part]; simp)
  | tickArb c =>
    obtain ⟨-, hk⟩ := ifEnabled_next h
    obtain ⟨-, n0, n1, h0, h1, he⟩ := tickUnit_effect hk ⟨[], []⟩ c (absurd rfl) fun _ => rfl
    refine .unit .arb ⟨[], []⟩ c n0 n1 ha rfl (by simpa [State.mayReceive] using h0)
      (by simpa [State.mayReceive] using h1) ?_
    simpa [TickEffect, CounterEffect, StatusEffect, CycleFrame, State.countsIn, State.recordsIn, State.requestsIn,
      State.overflowsIn] using he
  | tickCbo i c =>
    obtain ⟨-, hk⟩ := ifEnabled_next h
    obtain ⟨hu, n0, n1, h0, h1, he⟩ := tickUnit_effect hk c ⟨0, [], 0⟩ (fun _ => rfl) nofun
    refine .unit (.cbo i) c ⟨0, [], 0⟩ n0 n1 ha (by simpa using hu) (by simpa [State.mayReceive] using h0)
      (by simpa [State.mayReceive] using h1) ?_
    simpa [TickEffect, CounterEffect, StatusEffect, CycleFrame, State.countsIn, State.recordsIn, State.requestsIn,
      State.overflowsIn] using he
  | imc c =>
    cases h
    exact .imc c ha (by simp [countImc]) (by simp [countImc]) (by simp [countImc]) (by simp [countImc])
  | pmi =>
    obtain ⟨hp, hk⟩ := ifEnabled_next h
    cases hk
    rw [hpmu] at hp
    refine .pmi ha hp ?_ ?_ ?_ ?_
    · simp [deliverPmi, State.asleepAfterPmi, State.selectedCores]
    · simp
    · simp [State.pmiTargets, State.selectedCores]
    · simp
  | sleep n =>
    obtain ⟨hc, hk⟩ := ifEnabled_next h
    cases hk
    exact .sleep n true ha (by simpa using hc) (by simp) (by simp) (by simp) (by simp)
  | wake n =>
    obtain ⟨hc, hk⟩ := ifEnabled_next h
    cases hk
    exact .sleep n false ha (by simpa using hc) (by simp) (by simp) (by simp) (by simp)

end Sys2Proof.Machine
end

