-- ==== Sys2Proof/Tests/Slice0.lean ====
section
/-! SUPPORT. Tests: the checks of WellFormed, words written out from the encoding tables, vectors of
spec/95_test_vectors.md, and for each statement with hypotheses a concrete case that meets them (`witness_<Name>`),
with one for each clause at the edge of its range. -/

namespace Sys2Proof.Tests

open Sys2Proof Sys2Proof.Machine

/-! ### Well-formedness -/

/-- A mode with a threshold, all else off but EN. -/
def thrMode (thr : BitVec 5) : CountMode := { thr := thr, inv := false, en := true, ovfEn := false, edge := false }

/-- The mode of an enabled counter: THR 0, no edge. -/
def plain : CountMode := thrMode 0#5

theorem test_wellFormed_refuses_occupancy_all_with_thr_1 :
    (Instr.arbTrkOccupancyAll (thrMode 1#5)).wellFormed = false := by decide

theorem test_wellFormed_refuses_cycles_with_any_request_without_thr_1 :
    (Instr.arbTrkOccupancyCyclesWithAnyRequest (thrMode 0#5)).wellFormed = false ∧
    (Instr.arbTrkOccupancyCyclesWithAnyRequest (thrMode 2#5)).wellFormed = false := by decide

theorem witness_DecodeOfEncode :
    (Instr.arbTrkOccupancyAll (thrMode 0#5)).wellFormed = true ∧
    (Instr.arbTrkOccupancyAll (thrMode 31#5)).wellFormed = true ∧
    (Instr.arbTrkOccupancyCyclesWithAnyRequest (thrMode 1#5)).wellFormed = true ∧
    (Instr.wrmsrFixedCtr 0xFFFFFFFFFFFFFFFF#64).wellFormed = true ∧
    Instr.mmioRd32DramDataWrites.wellFormed = true ∧ WindowFits Part.reset.imcBar ∧
    WindowFits (imcBar 0xFFFFFFFFFFFFF000#64 0xFFFFFFFFFFFFA001#64) ∧
    ¬WindowFits (imcBar 0xFFFFFFFFFFFFF000#64 0xFFFFFFFFFFFFB001#64) := by
  refine ⟨by decide, by decide, by decide, by decide, by decide, ?_, ?_, ?_⟩ <;> unfold WindowFits <;> decide

theorem witness_ConfigurationHalvesGiveTheBase : Part.reset.imcBarMask = 0x0007FFFFFF8000#64 := by decide

/-! ### Decoding: every row, its word written out (R72, R106, R108, R110, R263, R268; the record's layout is log 8) -/

/-- The record of RDMSR at the address with the two low bytes `a0`, `a1`. -/
def rdRec (a0 a1 : Byte) : List Byte := [a0, a1, 0, 0, 0x32, 0, 0, 0, 0, 0, 0, 0, 0, 0, 0, 0]

/-- The record of WRMSR at the address with the two low bytes `a0`, `a1`, of a value with the low bytes `v0` to `v3`. -/
def wrRec (a0 a1 v0 v1 v2 v3 : Byte) : List Byte := [a0, a1, 0, 0, 0x30, 0, 0, 0, v0, v1, v2, v3, 0, 0, 0, 0]

/-- The record of a read of `n` bytes at the physical address with the low bytes `p0` to `p3`. -/
def memRec (n p0 p1 p2 p3 : Byte) : List Byte := [n, 0, 0, 0, 0x01, 0, 0, 0, p0, p1, p2, p3, 0, 0, 0, 0]

/-- The decoder's answer for an operation record where IMC_BAR is 0xFED10000. -/
def dec (bs : List Byte) : Option Instr := (decode 0xFED10000 .record bs).toOption

theorem test_decode_global_and_fixed_registers :
    dec (rdRec 0x01 0x0E) = some .rdmsrGlobalCtrl ∧
    dec (wrRec 0x01 0x0E 0x01 0x00 0x00 0xA0) = some (.wrmsrGlobalCtrl 0xA0000001#64) ∧
    dec (rdRec 0x02 0x0E) = some .rdmsrGlobalStatus ∧
    dec (wrRec 0x02 0x0E 0x08 0 0 0) = some (.wrmsrGlobalStatus 8#64) ∧
    dec (rdRec 0x94 0x03) = some .rdmsrFixedCtrl ∧
    dec (wrRec 0x94 0x03 0x00 0x00 0x50 0x00) = some (.wrmsrFixedCtrl 0x500000#64) ∧
    dec (rdRec 0x95 0x03) = some .rdmsrFixedCtr ∧
    dec (wrRec 0x95 0x03 0xFF 0xFF 0xFF 0xFF) = some (.wrmsrFixedCtr 0xFFFFFFFF#64) ∧
    dec (rdRec 0x96 0x03) = some .rdmsrCboConfig ∧
    dec (wrRec 0x96 0x03 0x05 0 0 0) = some (.wrmsrCboConfig 5#64) := by decide

theorem test_decode_arb_registers :
    dec (rdRec 0xB0 0x03) = some .rdmsrArbPerfCtr0 ∧
    dec (wrRec 0xB0 0x03 1 2 3 4) = some (.wrmsrArbPerfCtr0 0x04030201#64) ∧
    dec (rdRec 0xB1 0x03) = some .rdmsrArbPerfCtr1 ∧
    dec (wrRec 0xB1 0x03 1 2 3 4) = some (.wrmsrArbPerfCtr1 0x04030201#64) ∧
    dec (rdRec 0xB2 0x03) = some .rdmsrArbPerfEvtSel0 ∧
    dec (wrRec 0xB2 0x03 0x80 0x01 0x40 0x01) = some (.wrmsrArbPerfEvtSel0 0x01400180#64) ∧
    dec (rdRec 0xB3 0x03) = some .rdmsrArbPerfEvtSel1 ∧
    dec (wrRec 0xB3 0x03 0x81 0x01 0x50 0x00) = some (.wrmsrArbPerfEvtSel1 0x00500181#64) := by decide

theorem test_decode_cbo_event_selects :
    dec (rdRec 0x00 0x07) = some .rdmsrCbo0PerfEvtSel0 ∧ dec (rdRec 0x01 0x07) = some .rdmsrCbo0PerfEvtSel1 ∧
    dec (rdRec 0x10 0x07) = some .rdmsrCbo1PerfEvtSel0 ∧ dec (rdRec 0x11 0x07) = some .rdmsrCbo1PerfEvtSel1 ∧
    dec (rdRec 0x20 0x07) = some .rdmsrCbo2PerfEvtSel0 ∧ dec (rdRec 0x21 0x07) = some .rdmsrCbo2PerfEvtSel1 ∧
    dec (rdRec 0x30 0x07) = some .rdmsrCbo3PerfEvtSel0 ∧ dec (rdRec 0x31 0x07) = some .rdmsrCbo3PerfEvtSel1 ∧
    dec (wrRec 0x00 0x07 1 2 3 4) = some (.wrmsrCbo0PerfEvtSel0 0x04030201#64) ∧
    dec (wrRec 0x01 0x07 1 2 3 4) = some (.wrmsrCbo0PerfEvtSel1 0x04030201#64) ∧
    dec (wrRec 0x10 0x07 1 2 3 4) = some (.wrmsrCbo1PerfEvtSel0 0x04030201#64) ∧
    dec (wrRec 0x11 0x07 1 2 3 4) = some (.wrmsrCbo1PerfEvtSel1 0x04030201#64) ∧
    dec (wrRec 0x20 0x07 1 2 3 4) = some (.wrmsrCbo2PerfEvtSel0 0x04030201#64) ∧
    dec (wrRec 0x21 0x07 1 2 3 4) = some (.wrmsrCbo2PerfEvtSel1 0x04030201#64) ∧
    dec (wrRec 0x30 0x07 1 2 3 4) = some (.wrmsrCbo3PerfEvtSel0 0x04030201#64) ∧
    dec (wrRec 0x31 0x07 1 2 3 4) = some (.wrmsrCbo3PerfEvtSel1 0x04030201#64) := by decide

theorem test_decode_cbo_counters :
    dec (rdRec 0x06 0x07) = some .rdmsrCbo0PerfCtr0 ∧ dec (rdRec 0x07 0x07) = some .rdmsrCbo0PerfCtr1 ∧
    dec (rdRec 0x16 0x07) = some .rdmsrCbo1PerfCtr0 ∧ dec (rdRec 0x17 0x07) = some .rdmsrCbo1PerfCtr1 ∧
    dec (rdRec 0x26 0x07) = some .rdmsrCbo2PerfCtr0 ∧ dec (rdRec 0x27 0x07) = some .rdmsrCbo2PerfCtr1 ∧
    dec (rdRec 0x36 0x07) = some .rdmsrCbo3PerfCtr0 ∧ dec (rdRec 0x37 0x07) = some .rdmsrCbo3PerfCtr1 ∧
    dec (wrRec 0x06 0x07 1 2 3 4) = some (.wrmsrCbo0PerfCtr0 0x04030201#64) ∧
    dec (wrRec 0x07 0x07 1 2 3 4) = some (.wrmsrCbo0PerfCtr1 0x04030201#64) ∧
    dec (wrRec 0x16 0x07 1 2 3 4) = some (.wrmsrCbo1PerfCtr0 0x04030201#64) ∧
    dec (wrRec 0x17 0x07 1 2 3 4) = some (.wrmsrCbo1PerfCtr1 0x04030201#64) ∧
    dec (wrRec 0x26 0x07 1 2 3 4) = some (.wrmsrCbo2PerfCtr0 0x04030201#64) ∧
    dec (wrRec 0x27 0x07 1 2 3 4) = some (.wrmsrCbo2PerfCtr1 0x04030201#64) ∧
    dec (wrRec 0x36 0x07 1 2 3 4) = some (.wrmsrCbo3PerfCtr0 0x04030201#64) ∧
    dec (wrRec 0x37 0x07 1 2 3 4) = some (.wrmsrCbo3PerfCtr1 0x04030201#64) := by decide

theorem test_decode_rdpmc_imc_and_configuration :
    dec [7, 0, 0, 0x40, 0x33, 0, 0, 0, 0, 0, 0, 0, 0, 0, 0, 0] = some (.rdpmc 0x40000007#32) ∧
    dec (memRec 4 0x40 0x50 0xD1 0xFE) = some .mmioRd32DramGtRequests ∧
    dec (memRec 4 0x44 0x50 0xD1 0xFE) = some .mmioRd32DramIaRequests ∧
    dec (memRec 4 0x48 0x50 0xD1 0xFE) = some .mmioRd32DramIoRequests ∧
    dec (memRec 4 0x50 0x50 0xD1 0xFE) = some .mmioRd32DramDataReads ∧
    dec (memRec 4 0x54 0x50 0xD1 0xFE) = some .mmioRd32DramDataWrites ∧
    dec [0x48, 0, 0, 0, 0x03, 0, 0, 0, 0, 0, 0, 0, 0, 0, 0, 0] = some .cfgRd32Lo ∧
    dec [0x4C, 0, 0, 0, 0x03, 0, 0, 0, 0, 0, 0, 0, 0, 0, 0, 0] = some .cfgRd32Hi := by decide

/-- The decoder's answer for the content of `sel(u, j)` with the low bytes `v0` to `v3`. -/
def decSel (u : UnitId) (j : CtrIdx) (v0 v1 v2 v3 : Byte) : Option Instr :=
  (decode 0 (.slot u j) [v0, v1, v2, v3, 0, 0, 0, 0]).toOption

/-- Every mode field apart: THR 31, INV, OVF_EN and E set, EN clear; bits 31 to 16 are 0x1F94. -/
def loud : CountMode := { thr := 31#5, inv := true, en := false, ovfEn := true, edge := true }

theorem test_decode_snoop_events :
    decSel (.cbo .c0) .k0 0x22 0x41 0x40 0x00 = some (.xsnpResponseMissXcore .c0 .k0 plain) ∧
    decSel (.cbo .c1) .k1 0x22 0x81 0x94 0x1F = some (.xsnpResponseMissEviction .c1 .k1 loud) ∧
    decSel (.cbo .c2) .k0 0x22 0x44 0x40 0x00 = some (.xsnpResponseHitXcore .c2 .k0 plain) ∧
    decSel (.cbo .c3) .k1 0x22 0x48 0x94 0x1F = some (.xsnpResponseHitmXcore .c3 .k1 loud) := by decide

theorem test_decode_lookup_events :
    decSel (.cbo .c0) .k0 0x34 0x21 0x40 0x00 = some (.cacheLookupWriteM .c0 .k0 plain) ∧
    decSel (.cbo .c1) .k1 0x34 0x81 0x94 0x1F = some (.cacheLookupAnyM .c1 .k1 loud) ∧
    decSel (.cbo .c2) .k0 0x34 0x18 0x40 0x00 = some (.cacheLookupReadI .c2 .k0 plain) ∧
    decSel (.cbo .c3) .k1 0x34 0x88 0x94 0x1F = some (.cacheLookupAnyI .c3 .k1 loud) ∧
    decSel (.cbo .c0) .k1 0x34 0x1F 0x40 0x00 = some (.cacheLookupReadMesi .c0 .k1 plain) ∧
    decSel (.cbo .c1) .k0 0x34 0x2F 0x94 0x1F = some (.cacheLookupWriteMesi .c1 .k0 loud) ∧
    decSel (.cbo .c2) .k1 0x34 0x8F 0x40 0x00 = some (.cacheLookupAnyMesi .c2 .k1 plain) ∧
    decSel (.cbo .c3) .k0 0x34 0x86 0x94 0x1F = some (.cacheLookupAnyEs .c3 .k0 loud) ∧
    decSel (.cbo .c0) .k0 0x34 0x16 0x40 0x00 = some (.cacheLookupReadEs .c0 .k0 plain) ∧
    decSel (.cbo .c0) .k1 0x34 0x26 0x94 0x1F = some (.cacheLookupWriteEs .c0 .k1 loud) := by decide

theorem test_decode_arb_events_and_clock :
    decSel .arb .k0 0x80 0x01 0x40 0x00 = some (.arbTrkOccupancyAll plain) ∧
    decSel .arb .k0 0x80 0x01 0x40 0x01 = some (.arbTrkOccupancyCyclesWithAnyRequest (thrMode 1#5)) ∧
    decSel .arb .k0 0x80 0x01 0x40 0x02 = some (.arbTrkOccupancyAll (thrMode 2#5)) ∧
    decSel .arb .k1 0x81 0x01 0x94 0x1F = some (.arbTrkRequestsAll .k1 loud) ∧
    decSel .arb .k0 0x81 0x20 0x40 0x00 = some (.arbTrkRequestsWrites .k0 plain) ∧
    decSel .arb .k1 0x84 0x01 0x40 0x00 = some (.arbCohTrkRequestsAll .k1 plain) ∧
    (decode 0 .fixed [0x00, 0x01]).toOption = some .clockSocket := by decide

/-- What has no instruction (§2.1, §2.2, §2.6 of the vectors). -/
theorem test_decode_refuses :
    decode 0 (.slot .arb .k1) [0x80, 0x01, 0x40, 0, 0, 0, 0, 0] = .error .unlistedEvent ∧
    decode 0 (.slot (.cbo .c0) .k0) [0x22, 0x84, 0x40, 0, 0, 0, 0, 0] = .error .unlistedEvent ∧
    decode 0 (.slot (.cbo .c0) .k0) [0x22, 0x41, 0x60, 0, 0, 0, 0, 0] = .error .reservedBitInWord ∧
    decode 0 .fixed [0x01, 0x01] = .error .unlistedEvent ∧
    decode 0 .record (rdRec 0x91 0x03) = .error .notAPmuMsr ∧
    decode 0 .record [0x01, 0x0E, 0, 0, 0x31, 0, 0, 0, 0, 0, 0, 0, 0, 0, 0, 0] = .error .malformedRecord ∧
    decode 0 .record [0x01, 0x0E] = .error .malformedRecord := by decide

theorem witness_EncodeOfDecode :
    ({ Part.reset with cfg48 := 0xFED10001#64 } : Part).imcBar = 0xFED10000 ∧
    decode 0xFED10000 .record (memRec 4 0x54 0x50 0xD1 0xFE) = .ok .mmioRd32DramDataWrites := by decide

theorem witness_ListedMsrAddressesDecode :
    (0xE01#32, Instr.rdmsrGlobalCtrl, Instr.wrmsrGlobalCtrl) ∈ msrRows ∧
    (0x737#32, Instr.rdmsrCbo3PerfCtr1, Instr.wrmsrCbo3PerfCtr1) ∈ msrRows := by
  constructor <;> simp [msrRows, globalRows, arbCtrRows, arbSelRows, cboSelRows, cboCtrRows]

/-! ### Small states -/

/-- Right after reset, on a part whose reserved bits read 0. -/
def quiet : State := { State.reset with part := { Part.reset with reservedRead := .zero } }

/-- A part with a number of CBos and a number of cores. -/
def sized (cbos cores : UpToFour) : State :=
  { quiet with part := { quiet.part with nCbo := cbos, nCores := cores } }

/-- A part with a RESERVED_WRITE. -/
def strict (r : ReservedWrite) : State := { quiet with part := { quiet.part with reservedWrite := r } }

/-- A state in which one agent step comes next. -/
def soon (s : State) (a : Action) : State := { s with schedule := [a] }

/-- The global enable set. -/
def on : State := quiet.withPmu { Pmu.reset with gctrl := { Pmu.reset.gctrl with en := true } }

/-- The global enable set, and counter (u, j) at a value with an event select. -/
def armed (u : UnitId) (j : CtrIdx) (mode : CountMode) (umask evt : BitVec 8) (ctr : Ctr44) : State :=
  on.withPmu (on.pmu.putSlot u j
    { sel := { mode := mode, umask := umask, evt := evt }, ctr := ctr, prevActive := false })

/-- The fixed counter at a value, counting, with OVF_EN. -/
def clocked (v : Ctr48) (ovfEn : Bool) : State :=
  on.withPmu { on.pmu with fctr := v, fctrl := { cntEn := true, ovfEn := ovfEn } }

/-- The mode of an enabled counter that requests PMIs. -/
def alarm : CountMode := { plain with ovfEn := true }

/-- What is seen of the next state. -/
def seen {α : Type} (o : Answer) (f : State → α) : Option α :=
  match o with
  | .next t => some (f t)
  | _ => none

/-- What a read returns to the issuing core. -/
def got (i : Instr) (s : State) : Option Word64 := seen (exec i s) fun t => t.results.get s.issuer

/-- Ten programmable counters with the values and event codes 1 to 10. -/
def stamped : State :=
  quiet.withPmu
    ([(UnitId.arb, CtrIdx.k0), (.arb, .k1), (.cbo .c0, .k0), (.cbo .c0, .k1), (.cbo .c1, .k0), (.cbo .c1, .k1),
      (.cbo .c2, .k0), (.cbo .c2, .k1), (.cbo .c3, .k0), (.cbo .c3, .k1)].zipIdx.foldl
      (fun p x => p.putSlot x.1.1 x.1.2
        { Slot.zero with sel := { Slot.zero.sel with evt := BitVec.ofNat 8 (x.2 + 1) }
                         ctr := BitVec.ofNat 44 (x.2 + 1) }) Pmu.reset)

/-! ### Witnesses: operations that the decoder looks up -/

/-- Core `n` issues an operation next. -/
def asks (n : CoreIdx) (a : Access) : State := soon quiet (.access n a.encode)

/-- The operation comes next, whichever it is and whichever of the four cores issues it. -/
theorem asks_comes (n : CoreIdx) (a : Access) : (asks n a).comes n a [] := by
  cases n <;> exact ⟨rfl, rfl, rfl⟩

theorem witness_UnlistedMsrAddressesRefused :
    ((∀ r ∈ msrRows, r.1 ≠ 0x391#32) ∧ (∀ r ∈ msrRows, r.1 ≠ 0x702#32) ∧ (∀ r ∈ msrRows, r.1 ≠ 0x740#32) ∧
      (∀ r ∈ msrRows, r.1 ≠ 0xE03#32) ∧ ∀ r ∈ msrRows, r.1 ≠ 0x00010E01#32) ∧
    (asks .p0 (.rdmsr 0x391#32)).comes .p0 (.rdmsr 0x391#32) [] ∧
    (asks .p3 (.wrmsr 0x702#32 7#64)).comes .p3 (.wrmsr 0x702#32 7#64) [] := by
  exact ⟨by decide, asks_comes _ _, asks_comes _ _⟩

/-- A read of the four bytes ending in the first byte of a counter overlaps it; the four bytes before do not, nor do
the bytes between the third counter and the fourth, nor does an empty range; the whole word is a listed read. -/
theorem witness_PhysicalMemoryAccesses :
    (asks .p0 (.memRead 0x5040 4)).comes .p0 (.memRead 0x5040 4) [] ∧ quiet.part.imcBar = 0 ∧
    (asks .p1 (.memWrite 0x503C 5)).comes .p1 (.memWrite 0x503C 5) [] ∧
    OverlapsImc 0 0x503D 4 ∧ ¬OverlapsImc 0 0x503C 4 ∧ ¬OverlapsImc 0 0x504C 4 ∧ ¬OverlapsImc 0 0x5040 0 ∧
    (ImcCtr.gtRequests, 0x5040, Instr.mmioRd32DramGtRequests) ∈ imcRows ∧
    ¬∃ r ∈ imcRows, 0x503D = 0 + r.2.1 ∧ 4 = 4 := by
  refine ⟨asks_comes _ _, by decide, asks_comes _ _, ⟨_, List.mem_cons_self, 0x5040, by simp⟩, ?_, ?_, ?_,
    by simp [imcRows], by decide⟩ <;>
    · rintro ⟨r, hr, a, h⟩
      simp only [imcRows, List.mem_cons, List.not_mem_nil, or_false] at hr
      rcases hr with rfl | rfl | rfl | rfl | rfl <;> simp only at h <;> omega

theorem witness_ConfigurationReads :
    (asks .p0 (.cfgRd32 0 0 0 0x48#32)).comes .p0 (.cfgRd32 0 0 0 0x48#32) [] ∧
    (asks .p1 (.cfgRd32 0 0 0 0x4C#32)).comes .p1 (.cfgRd32 0 0 0 0x4C#32) [] ∧
    (asks .p2 (.cfgRd32 0 0 0 0x4A#32)).comes .p2 (.cfgRd32 0 0 0 0x4A#32) [] ∧
    (asks .p3 (.cfgRd32 0 0 1 0x48#32)).comes .p3 (.cfgRd32 0 0 1 0x48#32) [] ∧
    (Access.cfgRd32 0 0 0 0x4A#32).toInstr 0 = .error .notAPmuConfigRegister ∧
    (Access.cfgRd32 0 0 1 0x48#32).toInstr 0 = .error .notAPmuConfigRegister := by
  exact ⟨asks_comes _ _, asks_comes _ _, asks_comes _ _, asks_comes _ _, by decide, by decide⟩

/-! ### Registers (§2.1, §2.3 of the vectors) -/

theorem test_global_ctrl :
    seen (exec (.wrmsrGlobalCtrl 0xA0000001#64) quiet) (fun t => t.pmu.gctrl) =
      some { frzOnPmi := true, wakeOnPmi := false, en := true, pmiSel := ⟨true, false, false, false⟩ } ∧
    got .rdmsrGlobalCtrl (quiet.withPmu { quiet.pmu with
      gctrl := { frzOnPmi := true, wakeOnPmi := true, en := false, pmiSel := ⟨false, true, false, true⟩ } }) =
      some 0xC000000A#64 := by decide

/-- GSTAT = (CBOX, ARB, FIXED). -/
def status (c a f : Bool) : State :=
  quiet.withPmu { quiet.pmu with gstat := { cboxOvf := c, arbOvf := a, fixedOvf := f } }

theorem test_global_status_write_one_to_clear :
    seen (exec (.wrmsrGlobalStatus 0x8#64) (status true true true)) (fun t => t.pmu.gstat) =
      some ⟨false, true, true⟩ ∧
    seen (exec (.wrmsrGlobalStatus 0x0#64) (status true true true)) (fun t => t.pmu.gstat) =
      some ⟨true, true, true⟩ ∧
    seen (exec (.wrmsrGlobalStatus 0xB#64) (status false false false)) (fun t => t.pmu.gstat) =
      some ⟨false, false, false⟩ ∧
    seen (exec (.wrmsrGlobalStatus 0x3#64) (status true false true)) (fun t => t.pmu.gstat) =
      some ⟨true, false, false⟩ := by decide

theorem test_global_status_read :
    got .rdmsrGlobalStatus (status true true true) = some 0xB#64 ∧
    got .rdmsrGlobalStatus (status false true false) = some 0x2#64 := by decide

theorem test_fixed_registers :
    seen (exec (.wrmsrFixedCtrl 0x00500000#64) quiet) (fun t => t.pmu.fctrl) = some ⟨true, true⟩ ∧
    seen (exec (.wrmsrFixedCtrl 0x00400000#64) quiet) (fun t => t.pmu.fctrl) = some ⟨true, false⟩ ∧
    got .rdmsrFixedCtrl (clocked 0 false) = some 0x00400000#64 ∧
    seen (exec (.wrmsrFixedCtr 0xFFFFFFFFFFFF#64) quiet) (fun t => (t.pmu.fctr, t.pmu.gstat, t.pmu.pmiPending)) =
      some (0xFFFFFFFFFFFF#48, ⟨false, false, false⟩, false) ∧
    got .rdmsrFixedCtr (clocked 0xFEDCBA987654#48 true) = some 0xFEDCBA987654#64 := by decide

theorem test_cbo_config :
    got .rdmsrCboConfig quiet = some 5#64 ∧ got .rdmsrCboConfig (sized .two .four) = some 3#64 ∧
    exec (.wrmsrCboConfig 5#64) quiet = .fault .writeToReadOnlyMsr := by
  refine ⟨by decide, by decide, rfl⟩

theorem test_reads_of_event_selects :
    [Instr.rdmsrArbPerfEvtSel0, .rdmsrArbPerfEvtSel1, .rdmsrCbo0PerfEvtSel0, .rdmsrCbo0PerfEvtSel1,
      .rdmsrCbo1PerfEvtSel0, .rdmsrCbo1PerfEvtSel1, .rdmsrCbo2PerfEvtSel0, .rdmsrCbo2PerfEvtSel1,
      .rdmsrCbo3PerfEvtSel0, .rdmsrCbo3PerfEvtSel1].map (fun i => got i stamped) =
      (List.range 10).map (fun n => some (BitVec.ofNat 64 (n + 1))) := by decide

theorem test_reads_of_counters :
    [Instr.rdmsrArbPerfCtr0, .rdmsrArbPerfCtr1, .rdmsrCbo0PerfCtr0, .rdmsrCbo0PerfCtr1, .rdmsrCbo1PerfCtr0,
      .rdmsrCbo1PerfCtr1, .rdmsrCbo2PerfCtr0, .rdmsrCbo2PerfCtr1, .rdmsrCbo3PerfCtr0,
      .rdmsrCbo3PerfCtr1].map (fun i => got i stamped) =
      (List.range 10).map (fun n => some (BitVec.ofNat 64 (n + 1))) := by decide

/-- The field order of an event select (§2.1): 0x00D44122 and 0x1F000000. -/
theorem test_event_select_fields :
    EvtSel.unpack 0x00D44122#64 =
      { mode := { thr := 0#5, inv := true, en := true, ovfEn := true, edge := true }, umask := 0x41#8,
        evt := 0x22#8 } ∧
    EvtSel.unpack 0x1F000000#64 =
      { mode := { thr := 31#5, inv := false, en := false, ovfEn := false, edge := false }, umask := 0#8,
        evt := 0#8 } ∧
    (EvtSel.mk { thr := 1#5, inv := false, en := true, ovfEn := false, edge := true } 0x01#8 0x80#8).pack =
      0x01440180#64 := by decide

/-- The event select of (u, j) after a write of 0x00408F34. -/
def selAfter (i : Word64 → Instr) (u : UnitId) (j : CtrIdx) : Option EvtSel :=
  seen (exec (i 0x00408F34#64) quiet) fun t => (t.pmu.slot u j).sel

theorem test_writes_of_event_selects :
    [selAfter .wrmsrArbPerfEvtSel0 .arb .k0, selAfter .wrmsrArbPerfEvtSel1 .arb .k1,
      selAfter .wrmsrCbo0PerfEvtSel0 (.cbo .c0) .k0, selAfter .wrmsrCbo0PerfEvtSel1 (.cbo .c0) .k1,
      selAfter .wrmsrCbo1PerfEvtSel0 (.cbo .c1) .k0, selAfter .wrmsrCbo1PerfEvtSel1 (.cbo .c1) .k1,
      selAfter .wrmsrCbo2PerfEvtSel0 (.cbo .c2) .k0, selAfter .wrmsrCbo2PerfEvtSel1 (.cbo .c2) .k1,
      selAfter .wrmsrCbo3PerfEvtSel0 (.cbo .c3) .k0, selAfter .wrmsrCbo3PerfEvtSel1 (.cbo .c3) .k1] =
      List.replicate 10 (some { mode := plain, umask := 0x8F#8, evt := 0x34#8 }) := by decide

/-- The counter (u, j) after a write of 0xFFFFFFFFFFD. -/
def ctrAfter (i : Word64 → Instr) (u : UnitId) (j : CtrIdx) : Option Ctr44 :=
  seen (exec (i 0xFFFFFFFFFFD#64) quiet) fun t => (t.pmu.slot u j).ctr

theorem test_writes_of_counters :
    [ctrAfter .wrmsrArbPerfCtr0 .arb .k0, ctrAfter .wrmsrArbPerfCtr1 .arb .k1,
      ctrAfter .wrmsrCbo0PerfCtr0 (.cbo .c0) .k0, ctrAfter .wrmsrCbo0PerfCtr1 (.cbo .c0) .k1,
      ctrAfter .wrmsrCbo1PerfCtr0 (.cbo .c1) .k0, ctrAfter .wrmsrCbo1PerfCtr1 (.cbo .c1) .k1,
      ctrAfter .wrmsrCbo2PerfCtr0 (.cbo .c2) .k0, ctrAfter .wrmsrCbo2PerfCtr1 (.cbo .c2) .k1,
      ctrAfter .wrmsrCbo3PerfCtr0 (.cbo .c3) .k0, ctrAfter .wrmsrCbo3PerfCtr1 (.cbo .c3) .k1] =
      List.replicate 10 (some 0xFFFFFFFFFFD#44) := by decide

/-- The operation stops with a reserved bit set. -/
def stopsReserved (o : Answer) : Bool :=
  match o with
  | .refused .reservedBitSet => true
  | .fault .reservedBitSet => true
  | _ => false

theorem test_reserved_bits :
    [Instr.wrmsrCbo0PerfEvtSel0 0x00600000#64, .wrmsrArbPerfEvtSel0 0x20000000#64, .wrmsrCbo0PerfEvtSel0 0x00030000#64,
      .wrmsrGlobalCtrl 0x10#64, .wrmsrGlobalCtrl 0x100000000#64, .wrmsrGlobalStatus 0x4#64,
      .wrmsrGlobalStatus 0x80000000#64, .wrmsrFixedCtrl 0x00200000#64, .wrmsrFixedCtr 0x1000000000000#64,
      .wrmsrCbo0PerfCtr0 0x100000000000#64].all (fun i => stopsReserved (exec i quiet)) = true := by decide

theorem test_absent_cbo :
    exec .rdmsrCbo2PerfCtr0 (sized .two .four) = .refused .cboNotPresent ∧
    exec (.wrmsrCbo3PerfEvtSel0 0x00408F34#64) (sized .two .four) = .refused .cboNotPresent ∧
    exec (.rdpmc 0#32) quiet = .refused .rdpmcIndexNotInSource := ⟨rfl, rfl, rfl⟩

/-! ### Counting (§2.4 to §2.8) -/

/-- The fixed counter, its status bit and the pending PMI after a cycle. -/
def clockTo (s : State) : Option (Ctr48 × Bool × Bool) :=
  seen (exec .clockSocket s) fun t => (t.pmu.fctr, t.pmu.gstat.fixedOvf, t.pmu.pmiPending)

theorem test_fixed_counter :
    clockTo (clocked 5 true) = some (6#48, false, false) ∧
    clockTo (clocked 0xFFFFFFFFFFFF#48 true) = some (0#48, true, true) ∧
    clockTo (clocked 0xFFFFFFFFFFFF#48 false) = some (0#48, true, false) ∧
    clockTo (clocked 0xFFFFFFFFFFFE#48 true) = some (0xFFFFFFFFFFFF#48, false, false) := by decide

theorem test_threshold_table :
    [countDelta (thrMode 0#5) 3 false, countDelta { plain with inv := true } 3 false, countDelta plain 0 false,
      countDelta (thrMode 2#5) 3 false, countDelta (thrMode 2#5) 2 false, countDelta (thrMode 2#5) 1 false,
      countDelta { thrMode 2#5 with inv := true } 1 false, countDelta { thrMode 2#5 with inv := true } 0 false,
      countDelta { thrMode 2#5 with inv := true } 2 false, countDelta (thrMode 31#5) 31 false,
      countDelta (thrMode 31#5) 30 false, countDelta (thrMode 31#5) 40 false,
      countDelta { plain with edge := true } 3 false, countDelta { plain with edge := true } 3 true,
      countDelta { plain with edge := true } 0 true,
      countDelta { thrMode 1#5 with inv := true, edge := true } 0 false,
      countDelta { thrMode 1#5 with inv := true, edge := true } 5 true] =
      [3, 3, 0, 1, 1, 0, 1, 1, 0, 1, 0, 1, 1, 0, 0, 1, 0] := by decide

/-- The record of §2.6. -/
def cboRecord : CboCycle where
  lookups := [⟨.read, .m⟩, ⟨.read, .e⟩, ⟨.read, .i⟩, ⟨.write, .m⟩, ⟨.write, .s⟩, ⟨.write, .i⟩, ⟨.other, .e⟩,
    ⟨.other, .i⟩]
  snoops := [⟨.xcore, .miss⟩, ⟨.xcore, .hit⟩, ⟨.xcore, .hitm⟩, ⟨.xcore, .hitm⟩, ⟨.eviction, .miss⟩, ⟨.eviction, .hit⟩,
    ⟨.other, .miss⟩]

/-- The record of §2.7. -/
def arbRecord : ArbCycle := { trkValid := 4, trkAlloc := [.write, .write, .other], cohTrkAlloc := 2 }

/-- What counter (CBO_1, 1) holds after a cycle of an event with that record. -/
def cboCounts (i : CboIdx → CtrIdx → CountMode → Instr) : Option Nat :=
  seen (exec (i .c1 .k1 plain) { on with cboCycle := cboRecord }) fun t => (t.pmu.slot (.cbo .c1) .k1).ctr.toNat

theorem test_cbo_events :
    [cboCounts .xsnpResponseMissXcore, cboCounts .xsnpResponseMissEviction, cboCounts .xsnpResponseHitXcore,
      cboCounts .xsnpResponseHitmXcore, cboCounts .cacheLookupWriteM, cboCounts .cacheLookupAnyM,
      cboCounts .cacheLookupReadI, cboCounts .cacheLookupAnyI, cboCounts .cacheLookupReadMesi,
      cboCounts .cacheLookupWriteMesi, cboCounts .cacheLookupAnyMesi, cboCounts .cacheLookupAnyEs,
      cboCounts .cacheLookupReadEs, cboCounts .cacheLookupWriteEs] =
      [1, 1, 1, 2, 1, 2, 1, 3, 3, 3, 8, 3, 1, 1].map some := by decide

/-- What ARB counter j holds after a cycle of an event with the record of §2.7. -/
def arbCounts (j : CtrIdx) (i : Instr) : Option Nat :=
  seen (exec i { on with arbCycle := arbRecord }) fun t => (t.pmu.slot .arb j).ctr.toNat

theorem test_arb_events :
    [arbCounts .k0 (.arbTrkOccupancyAll plain), arbCounts .k0 (.arbTrkOccupancyCyclesWithAnyRequest (thrMode 1#5)),
      arbCounts .k1 (.arbTrkRequestsAll .k1 plain), arbCounts .k0 (.arbTrkRequestsWrites .k0 plain),
      arbCounts .k1 (.arbCohTrkRequestsAll .k1 plain)] = [4, 1, 3, 2, 2].map some := by decide

/-- The counter, the CBOX and ARB status bits and the pending PMI after a cycle of UNC_ARB_TRK_REQUESTS.ALL with three
allocations, from a value. -/
def wrap (v : Ctr44) (mode : CountMode) : Option (Ctr44 × Bool × Bool × Bool) :=
  seen (exec (.arbTrkRequestsAll .k0 mode) { armed .arb .k0 mode 0x01 0x81 v with arbCycle := arbRecord })
    fun t => ((t.pmu.slot .arb .k0).ctr, t.pmu.gstat.cboxOvf, t.pmu.gstat.arbOvf, t.pmu.pmiPending)

theorem test_counter_wraps :
    wrap 0xFFFFFFFFFFD#44 alarm = some (0#44, false, true, true) ∧
    wrap 0xFFFFFFFFFFE#44 plain = some (1#44, false, true, false) ∧
    wrap 0xFFFFFFFFFFC#44 alarm = some (0xFFFFFFFFFFF#44, false, false, false) := by decide

/-- The IMC counters, one of them at a value. -/
def dram (c : ImcCtr) (v : Word32) : State := quiet.withPmu { quiet.pmu with imc := quiet.pmu.imc.put c v }

theorem test_imc_reads :
    got .mmioRd32DramGtRequests (dram .gtRequests 0x2A#32) = some 0x2A#64 ∧
    got .mmioRd32DramIaRequests (dram .iaRequests 0x2B#32) = some 0x2B#64 ∧
    got .mmioRd32DramIoRequests (dram .ioRequests 0x2C#32) = some 0x2C#64 ∧
    got .mmioRd32DramDataReads (dram .dataReads 0x2D#32) = some 0x2D#64 ∧
    got .mmioRd32DramDataWrites (dram .dataWrites 0xFFFFFFFF#32) = some 0xFFFFFFFF#64 := by decide

theorem test_configuration_reads :
    imcBar Config.imcBarMask 0x0000000123458001#64 = 0x123458000 ∧
    imcBar 0x0007FFFFF8000#64 0xFF8123458001#64 = 0x123458000 ∧
    got .cfgRd32Lo { quiet with part := { quiet.part with cfg48 := 0x0000000123458001#64 } } = some 0x23458001#64 ∧
    got .cfgRd32Hi { quiet with part := { quiet.part with cfg48 := 0x0000000123458001#64 } } = some 1#64 := by decide

/-! ### Words of the table, run by a step (log 9) -/

theorem test_table_words :
    decodeTableWord 32 0xE01 = some .rdmsrGlobalCtrl ∧ decodeTableWord 16 0x5040 = some .mmioRd32DramGtRequests ∧
    decodeTableWord 16 0x48 = some .cfgRd32Lo ∧ decodeTableWord 32 0x4122 = some (.xsnpResponseMissXcore .c0 .k0
      { thr := 0#5, inv := false, en := false, ovfEn := false, edge := false }) ∧
    decodeTableWord 16 0x0100 = some .clockSocket := by decide

theorem test_step_runs_the_placed_word :
    (State.reset.withFetchWord 16 0x5040).schedule =
      [.access .p0 [4, 0, 0, 0, 0x01, 0, 0, 0, 0x40, 0x50, 0, 0, 0, 0, 0, 0]] ∧
    (seen (step (State.reset.withFetchWord 16 0x5040)) fun t => t.results.get .p0) = some 0#64 ∧
    (seen (step (State.reset.withFetchWord 16 0x0100)) fun t => t.pmu) = some Pmu.reset := by decide

/-! ### Witnesses: steps -/

/-- Core 0 of a one-core part, core 3 of a four-core part; a listed record, and the largest operands that fit. -/
theorem witness_StepRunsTheIssuedOperation :
    (sized .one .one).part.hasCore .p0 = true ∧ quiet.part.hasCore .p3 = true ∧ quiet.pmu.asleep.mem .p3 = false ∧
    decode quiet.part.imcBar .record (rdRec 0x02 0x0E) = .ok .rdmsrGlobalStatus ∧
    Fits (.memRead 0x5040 4) ∧ (Access.memRead 0x5040 4).toInstr quiet.part.imcBar =
      .ok .mmioRd32DramGtRequests ∧
    Fits (.memRead 0xFFFFFFFFFFFFFFFF 0xFFFFFFFF) ∧ Fits (.rdmsr 0x391#32) ∧
    (Access.rdmsr 0x391#32).toInstr quiet.part.imcBar = .error .notAPmuMsr := by
  refine ⟨by decide, by decide, by decide, by decide, by simp [Fits], by decide, by simp [Fits], trivial, by decide⟩

/-- CBo 0 with one event in each of its selects, on a part whose MAX_INC is the record's largest increment. -/
def busy : State :=
  let s := armed (.cbo .c0) .k0 plain 0x8F 0x34 0
  { s with
    pmu := s.pmu.putSlot (.cbo .c0) .k1 { Slot.zero with sel := { mode := alarm, umask := 0x41#8, evt := 0x22#8 } }
    part := { s.part with nCbo := .one, maxInc := some 8 }
    schedule := [.tickCbo .c0 cboRecord] }

/-- The ARB with one event in each of its selects. -/
def busyArb : State :=
  let s := armed .arb .k0 plain 0x01 0x80 0
  { s with
    pmu := s.pmu.putSlot .arb .k1 { Slot.zero with sel := { mode := plain, umask := 0x01#8, evt := 0x81#8 } }
    part := { s.part with maxInc := some 4 }
    schedule := [.tickArb arbRecord] }

theorem witness_TickRunsTheSelectedEvents :
    busy.part.admitsCbo cboRecord = true ∧
    decodeEvent (.cbo .c0) .k0 (busy.pmu.slot (.cbo .c0) .k0).sel = some (.cacheLookupAnyMesi .c0 .k0 plain) ∧
    decodeEvent (.cbo .c0) .k1 (busy.pmu.slot (.cbo .c0) .k1).sel = some (.xsnpResponseMissXcore .c0 .k1 alarm) ∧
    (seen (exec (.cacheLookupAnyMesi .c0 .k0 plain) { busy with schedule := [], cboCycle := cboRecord })
      fun t => (t.pmu.slot (.cbo .c0) .k0).ctr) = some 8#44 ∧
    busyArb.part.admitsArb arbRecord = true ∧
    decodeEvent .arb .k0 (busyArb.pmu.slot .arb .k0).sel = some (.arbTrkOccupancyAll plain) ∧
    decodeEvent .arb .k1 (busyArb.pmu.slot .arb .k1).sel = some (.arbTrkRequestsAll .k1 plain) ∧
    (seen (exec (.arbTrkOccupancyAll plain) { busyArb with schedule := [], arbCycle := arbRecord })
      fun t => (t.pmu.slot .arb .k0).ctr) = some 4#44 ∧
    (soon quiet .tickFixed).schedule = [.tickFixed] := by decide

theorem witness_TickOfAUnit :
    busy.schedule = [tickOf (.cbo .c0) cboRecord arbRecord] ∧ busy.part.hasUnit (.cbo .c0) = true ∧
    busy.part.admitsCbo cboRecord = true ∧ { busy.part with maxInc := some 4 }.admitsArb arbRecord = true ∧
    { busy.part with maxInc := none }.admitsArb arbRecord = true ∧
    listedIncrement (.cbo .c0) .k0 (busy.pmu.slot (.cbo .c0) .k0).sel cboRecord arbRecord = some 8 ∧
    listedIncrement .arb .k1 { mode := plain, umask := 0x01#8, evt := 0x80#8 } cboRecord arbRecord = none ∧
    listedIncrement .arb .k0 { mode := plain, umask := 0x01#8, evt := 0x80#8 } cboRecord arbRecord = some 4 ∧
    (seen (step busy) fun t => ((t.pmu.slot (.cbo .c0) .k0).ctr, (t.pmu.slot (.cbo .c0) .k1).ctr)) =
      some (8#44, 1#44) := by decide

theorem witness_AgentsWithoutAStepAreNotRun :
    ({ quiet.pmu.asleep with p1 := true } : CoreSet).mem .p1 = true ∧
    (sized .four .one).part.nCores.toNat ≤ CoreIdx.toNat .p1 ∧ (sized .one .four).part.nCbo.toNat ≤ CboIdx.toNat .c1 ∧
    (sized .three .four).part.nCbo.toNat ≤ CboIdx.toNat .c3 ∧ (soon quiet .pmi).pmu.pmiPending = false ∧
    (sized .four .three).part.nCores.toNat ≤ CoreIdx.toNat .p3 := by decide

/-! ### Witnesses: reads and writes -/

/-- A value without a reserved bit and one with only a reserved bit, for each register format, at both ends of the
reserved ranges; every RESERVED_READ and RESERVED_WRITE is some state's. For GlobalCtrlRead and Write, GlobalStatusRead
and WriteOneToClear, FixedCtrlRead and Write, FixedCtrRead and Write, CboConfigRead, and the reads and writes of the
event selects and counters of the CBos and the ARB. -/
theorem witness_Reads_and_Writes :
    quiet.part.reservedRead = .zero ∧ (strict .refuse).part.reservedWrite = .refuse ∧
    (strict .fault).part.reservedWrite = .fault ∧ (strict .ignore).part.reservedWrite = .ignore ∧
    (0xE000000F#64 &&& 0xFFFFFFFF1FFFFFF0#64 = 0#64 ∧ 0x10#64 &&& 0xFFFFFFFF1FFFFFF0#64 ≠ 0#64 ∧
      0x10000000#64 &&& 0xFFFFFFFF1FFFFFF0#64 ≠ 0#64 ∧ 0x100000000#64 &&& 0xFFFFFFFF1FFFFFF0#64 ≠ 0#64) ∧
    (0xB#64 &&& 0xFFFFFFFFFFFFFFF4#64 = 0#64 ∧ 0x4#64 &&& 0xFFFFFFFFFFFFFFF4#64 ≠ 0#64) ∧
    (0x500000#64 &&& 0xFFFFFFFFFFAFFFFF#64 = 0#64 ∧ 0x200000#64 &&& 0xFFFFFFFFFFAFFFFF#64 ≠ 0#64) ∧
    (0xFFFFFFFFFFFF#64 &&& 0xFFFF000000000000#64 = 0#64 ∧ 0x1000000000000#64 &&& 0xFFFF000000000000#64 ≠ 0#64) ∧
    (0x1FD4FFFF#64 &&& 0xFFFFFFFFE02B0000#64 = 0#64 ∧ 0x20000000#64 &&& 0xFFFFFFFFE02B0000#64 ≠ 0#64) ∧
    (0xFFFFFFFFFFF#64 &&& 0xFFFFF00000000000#64 = 0#64 ∧ 0x100000000000#64 &&& 0xFFFFF00000000000#64 ≠ 0#64) := by
  decide

theorem witness_CboEventSelectRead_and_Write :
    (sized .three .one).part.nCbo.toNat ≤ CboIdx.toNat .c3 ∧
    (CboIdx.c0, CtrIdx.k0, 0x700#32, Instr.rdmsrCbo0PerfEvtSel0, Instr.wrmsrCbo0PerfEvtSel0) ∈ cboSelRows ∧
    CboIdx.toNat .c0 < (sized .one .one).part.nCbo.toNat ∧
    (CboIdx.c3, CtrIdx.k1, 0x731#32, Instr.rdmsrCbo3PerfEvtSel1, Instr.wrmsrCbo3PerfEvtSel1) ∈ cboSelRows ∧
    CboIdx.toNat .c3 < quiet.part.nCbo.toNat := by
  refine ⟨by decide, by simp [cboSelRows], by decide, by simp [cboSelRows], by decide⟩

theorem witness_CboCounterRead_and_Write :
    (sized .three .one).part.nCbo.toNat ≤ CboIdx.toNat .c3 ∧
    (CboIdx.c0, CtrIdx.k0, 0x706#32, Instr.rdmsrCbo0PerfCtr0, Instr.wrmsrCbo0PerfCtr0) ∈ cboCtrRows ∧
    CboIdx.toNat .c0 < (sized .one .one).part.nCbo.toNat ∧
    (CboIdx.c3, CtrIdx.k1, 0x737#32, Instr.rdmsrCbo3PerfCtr1, Instr.wrmsrCbo3PerfCtr1) ∈ cboCtrRows ∧
    CboIdx.toNat .c3 < quiet.part.nCbo.toNat := by
  refine ⟨by decide, by simp [cboCtrRows], by decide, by simp [cboCtrRows], by decide⟩

theorem witness_ArbRegisters :
    (CtrIdx.k1, 0x3B3#32, Instr.rdmsrArbPerfEvtSel1, Instr.wrmsrArbPerfEvtSel1) ∈ arbSelRows ∧
    (CtrIdx.k0, 0x3B0#32, Instr.rdmsrArbPerfCtr0, Instr.wrmsrArbPerfCtr0) ∈ arbCtrRows := by
  simp [arbSelRows, arbCtrRows]

theorem witness_ReservedBitsOfAWrite :
    Msr.perfCtr (.cbo .c3) .k1 ≠ .cboConfig ∧ presentOn quiet.part (.perfCtr (.cbo .c3) .k1) = true ∧
    0x100000000000#64 &&& reservedOf (.perfCtr (.cbo .c3) .k1) ≠ 0#64 ∧
    exec ((Msr.perfCtr (.cbo .c3) .k1).wrInstr 0x100000000000#64) (strict .refuse) = .refused .reservedBitSet ∧
    exec ((Msr.perfCtr (.cbo .c3) .k1).wrInstr 0x100000000000#64) (strict .fault) = .fault .reservedBitSet ∧
    (seen (exec ((Msr.perfCtr (.cbo .c3) .k1).wrInstr 0x100000000007#64) (strict .ignore))
      fun t => (t.pmu.slot (.cbo .c3) .k1).ctr) = some 7#44 := by
  refine ⟨by decide, by decide, by decide, rfl, rfl, by decide⟩

theorem witness_AbsentCboRefused :
    (CboIdx.c1, CtrIdx.k0, 0x710#32, Instr.rdmsrCbo1PerfEvtSel0, Instr.wrmsrCbo1PerfEvtSel0)
      ∈ cboSelRows ++ cboCtrRows ∧ (sized .one .one).part.nCbo.toNat ≤ CboIdx.toNat .c1 ∧
    (CboIdx.c3, CtrIdx.k1, 0x737#32, Instr.rdmsrCbo3PerfCtr1, Instr.wrmsrCbo3PerfCtr1) ∈ cboSelRows ++ cboCtrRows ∧
    (sized .three .one).part.nCbo.toNat ≤ CboIdx.toNat .c3 := by
  refine ⟨by simp [cboSelRows, cboCtrRows], by decide, by simp [cboSelRows, cboCtrRows], by decide⟩

theorem witness_ReadsHaveNoSideEffect :
    (∃ r ∈ imcRows, Instr.mmioRd32DramIoRequests = r.2.2) ∧
    (∃ r ∈ msrRows, Instr.rdmsrFixedCtr = r.2.1) ∧
    (seen (exec .rdmsrFixedCtr (clocked 5 true)) fun t => t.results.get .p0) = some 5#64 := by
  refine ⟨by simp [imcRows], by simp [msrRows, globalRows], by decide⟩

theorem witness_WriteChangesOnlyItsRegister :
    (seen (exec ((Msr.perfEvtSel .arb .k1).wrInstr 0x00500181#64) quiet) fun t => (t.pmu.slot .arb .k1).sel) =
      some { mode := alarm, umask := 0x01#8, evt := 0x81#8 } := by decide

theorem witness_CoresShareOneCopy :
    quiet.canIssue .p3 = true ∧
    (seen (runAction (.access .p1 (rdRec 0x95 0x03)) (clocked 9 true)) fun t => t.results.get .p1) = some 9#64 := by
  decide

/-! ### Witnesses: the IMC -/

theorem witness_ImcCounterRead :
    (ImcCtr.dataWrites, 0x5054, Instr.mmioRd32DramDataWrites) ∈ imcRows := by simp [imcRows]

theorem witness_ImcEventCounts :
    (soon (dram .dataWrites 0xFFFFFFFF#32) (.imc .dataWrites)).schedule = [.imc .dataWrites] ∧
    (seen (step (soon (dram .dataWrites 0xFFFFFFFF#32) (.imc .dataWrites)))
      fun t => (t.pmu.imc.writes, t.pmu.gstat, t.pmu.pmiPending)) = some (0#32, ⟨false, false, false⟩, false) := by
  decide

theorem witness_ImcChangesOnlyByItsEvents :
    (soon quiet (.imc .dataReads)).nextAction ≠ .imc .dataWrites ∧
    (seen (step (soon quiet (.imc .dataReads))) fun t => t.pmu.imc.writes) = some 0#32 := by decide

/-- Two reads of DRAM_DATA_READS, by two cores, with two of its events and one of another counter between them. -/
def sampling : State :=
  { dram .dataReads 0xFFFFFFFF#32 with
    schedule := [.access .p0 (memRec 4 0x50 0x50 0 0), .imc .dataReads, .imc .iaRequests, .imc .dataReads,
      .access .p1 (memRec 4 0x50 0x50 0 0)] }

theorem witness_ImcSampling :
    (encode sampling.part.imcBar .mmioRd32DramDataReads).2 = memRec 4 0x50 0x50 0 0 ∧
    (seen (runSteps 5 sampling) fun t => (t.results.get .p0, t.results.get .p1)) = some (0xFFFFFFFF#64, 1#64) := by
  decide

/-! ### Witnesses: counting -/

theorem witness_FixedCounterCycle :
    quiet.pmu.gctrl.en = false ∧ on.pmu.fctrl.cntEn = false ∧
    (clocked 0xFFFFFFFFFFFF#48 true).pmu.gctrl.en = true ∧ (clocked 0xFFFFFFFFFFFF#48 true).pmu.fctrl.cntEn = true := by
  decide

/-- One tick from the top value overflows; no tick does not. -/
theorem witness_FixedCounterPeriod :
    (soon (clocked 0xFFFFFFFFFFFF#48 true) .tickFixed).schedule = List.replicate 1 .tickFixed ++ [] ∧
    (clocked 0xFFFFFFFFFFFF#48 true).pmu.gstat.fixedOvf = false ∧
    (clocked 0xFFFFFFFFFFFF#48 true).pmu.fctrl.ovfEn = true ∧
    (clocked 0xFFFFFFFFFFFF#48 true).pmu.fctr.toNat + 1 ≤ 2 ^ 48 ∧
    (seen (runSteps 1 (soon (clocked 0xFFFFFFFFFFFF#48 true) .tickFixed))
      fun t => (t.pmu.fctr, t.pmu.gstat.fixedOvf)) = some (0#48, true) := by decide

/-- For SnoopResponseEvents, CacheLookupEventsOfOneState and CacheLookupEventsOfManyStates. -/
theorem witness_CboEvents :
    CboIdx.toNat .c0 < (sized .one .one).part.nCbo.toNat ∧ CboIdx.toNat .c3 < quiet.part.nCbo.toNat := by decide

theorem witness_ArbOccupancyEvents : (thrMode 1#5).thr = 1#5 ∧ (thrMode 0#5).thr ≠ 1#5 ∧ (thrMode 2#5).thr ≠ 1#5 := by
  decide

theorem witness_ThresholdAndEdgeTable :
    plain.thr = 0#5 ∧ plain.edge = false ∧ { plain with edge := true }.edge = true ∧ (thrMode 1#5).thr ≠ 0#5 ∧
    (thrMode 31#5).inv = false ∧ { thrMode 1#5 with inv := true }.inv = true ∧
    { thrMode 1#5 with inv := true, edge := true }.edge = true := by decide

theorem witness_CboEventRelations :
    (∀ l ∈ ({ lookups := [⟨.read, .m⟩, ⟨.write, .i⟩], snoops := [] } : CboCycle).lookups, l.req ≠ .other) := by decide

/-! ### Witnesses: the PMI and the cores (§2.9) -/

/-- A pending PMI on a part with a number of cores, with the fields of GCTRL and the sleeping cores. -/
def pending (cores : UpToFour) (sel : CoreSet) (wake frz : Bool) (asleep : CoreSet) : State :=
  { sized .four cores with
    pmu := { quiet.pmu with
      gctrl := { frzOnPmi := frz, wakeOnPmi := wake, en := true, pmiSel := sel }, pmiPending := true, asleep := asleep }
    schedule := [.pmi] }

/-- The targets, the sleeping cores, EN and the pending flag after the delivery. -/
def delivery (s : State) : Option (List CoreIdx × CoreSet × Bool × Bool) :=
  seen (step s) fun t => (t.delivered, t.pmu.asleep, t.pmu.gctrl.en, t.pmu.pmiPending)

/-- No core. -/
def noCore : CoreSet := CoreSet.empty

theorem witness_PmiDelivery :
    [delivery (pending .four ⟨true, false, true, false⟩ false false ⟨false, false, true, false⟩),
      delivery (pending .four ⟨true, false, true, false⟩ true false ⟨false, false, true, false⟩),
      delivery (pending .four ⟨true, false, true, false⟩ true true ⟨false, true, true, false⟩),
      delivery (pending .four noCore true true noCore),
      delivery (pending .four ⟨false, false, true, false⟩ false true ⟨false, false, true, false⟩),
      delivery (pending .two ⟨false, false, true, true⟩ true false noCore),
      delivery (pending .four ⟨true, true, true, true⟩ false false noCore)] =
      [([.p0], ⟨false, false, true, false⟩, true, false), ([.p0, .p2], noCore, true, false),
        ([.p0, .p2], ⟨false, true, false, false⟩, false, false), ([], noCore, false, false),
        ([], ⟨false, false, true, false⟩, false, false), ([], noCore, true, false),
        ([.p0, .p1, .p2, .p3], noCore, true, false)].map some := by decide

theorem witness_PmiDelivery_with_nothing_pending :
    (soon quiet .pmi).schedule = [.pmi] ∧ (soon quiet .pmi).pmu.pmiPending = false := by decide

theorem witness_SleepAndWake :
    CoreIdx.toNat .p0 < (sized .four .one).part.nCores.toNat ∧
    (seen (step (soon (sized .four .one) (.sleep .p0))) fun t => t.pmu.asleep) = some ⟨true, false, false, false⟩ ∧
    (seen (step (soon quiet (.wake .p3))) fun t => t.pmu.asleep) = some noCore ∧
    (sized .four .one).part.nCores.toNat ≤ CoreIdx.toNat .p1 ∧
    (soon (sized .four .one) (.sleep .p1)).schedule = [.sleep .p1] ∧
    (pending .four noCore false false ⟨false, true, false, false⟩).pmu.asleep.mem .p1 = true := by decide

/-- A run of two other steps with a PMI pending. -/
def waiting : State :=
  { pending .four ⟨true, true, false, false⟩ false true noCore with schedule := [.tickFixed, .sleep .p1, .pmi] }

theorem witness_PendingPmiIsDelivered :
    Sys2Proof.Action.pmi ∉ [Sys2Proof.Action.tickFixed, .sleep .p1] ∧ waiting.pmu.pmiPending = true ∧
    (seen (runSteps 2 waiting) fun t => (t.pmu.pmiPending, t.schedule)) = some (true, [.pmi]) ∧
    (seen (runSteps 3 waiting) fun t => (t.pmu.pmiPending, t.delivered)) = some (false, [.p0]) := by decide

/-! ### Witnesses: rules of the whole machine -/

theorem witness_InvariantKeptByEveryStep :
    (∀ n ∈ (soon quiet (.sleep .p3)).delivered, quiet.part.hasCore n = true) ∧
    (seen (step (soon quiet (.sleep .p3))) fun t => t.pmu.asleep.mem .p3) = some true := by decide

theorem witness_PartIsConstantAndAbsentCbosUntouched :
    (sized .one .four).part.nCbo.toNat ≤ CboIdx.toNat .c1 ∧
    (seen (step (soon (sized .one .four) .tickFixed)) fun t => t.part.nCbo) = some .one := by decide

/-- The fixed counter one cycle before its overflow. -/
def brink : State := soon (clocked 0xFFFFFFFFFFFF#48 true) .tickFixed

/-- Counters (CBO_3, 1) or (ARB, 0) one event before their overflow. -/
def brinkOf (u : UnitId) (j : CtrIdx) (umask evt : BitVec 8) (a : Action) : State :=
  soon (armed u j alarm umask evt 0xFFFFFFFFFFF#44) a

theorem witness_StatusBitsChangeOnlyByRule :
    (seen (step (soon (status true true true) (.access .p0 (wrRec 0x02 0x0E 0x0B 0 0 0)))) fun t => t.pmu.gstat) =
      some ⟨false, false, false⟩ ∧
    (seen (step brink) fun t => t.pmu.gstat) = some ⟨false, false, true⟩ ∧
    (seen (step (brinkOf (.cbo .c3) .k1 0x8F 0x34 (.tickCbo .c3 cboRecord))) fun t => t.pmu.gstat) =
      some ⟨true, false, false⟩ ∧
    (seen (step (brinkOf .arb .k0 0x01 0x80 (.tickArb arbRecord))) fun t => t.pmu.gstat) =
      some ⟨false, true, false⟩ := by decide

theorem witness_PmiRequestsOnlyByOverflow :
    brink.pmu.pmiPending = false ∧ (seen (step brink) fun t => t.pmu.pmiPending) = some true ∧
    (seen (step (brinkOf .arb .k0 0x01 0x80 (.tickArb arbRecord))) fun t => t.pmu.pmiPending) = some true ∧
    (seen (step (pending .four noCore false false noCore)) fun t => t.pmu.pmiPending) = some false := by decide

theorem witness_ControlRegistersChangeOnlyByWriteOrFreeze :
    (seen (step (soon quiet (.access .p0 (wrRec 0x01 0x0E 0 0 0 0x20)))) fun t => t.pmu.gctrl.en) = some true ∧
    (seen (step (pending .four noCore false true noCore)) fun t => t.pmu.gctrl.en) = some false ∧
    (seen (step (soon quiet (.access .p0 (wrRec 0x94 0x03 0 0 0x40 0)))) fun t => t.pmu.fctrl.cntEn) = some true ∧
    (seen (step (soon quiet (.access .p0 (wrRec 0xB2 0x03 0x80 0x01 0x40 0)))) fun t => (t.pmu.slot .arb .k0).sel.evt) =
      some 0x80#8 := by decide

theorem witness_NothingCountsWhileDisabled :
    quiet.pmu.gctrl.en = false ∧
    (seen (step (soon quiet (.access .p0 (wrRec 0x95 0x03 7 0 0 0)))) fun t => t.pmu.fctr) = some 7#48 ∧
    (seen (step (soon quiet (.access .p0 (wrRec 0xB0 0x03 7 0 0 0)))) fun t => (t.pmu.slot .arb .k0).ctr) = some 7#44 ∧
    (seen (step (soon (status true true true) (.access .p0 (wrRec 0x02 0x0E 1 0 0 0)))) fun t => t.pmu.gstat.fixedOvf) =
      some false := by decide

end Sys2Proof.Tests
end

/-! The statements of 00_scope.md: a step runs the operation that its agent issues, an agent that has no step is not
run, and no step changes the part or a CBo that the part lacks. -/

namespace Sys2Proof.Machine

open Sys2Proof

/-! ### What the part has (R9, R75) -/

theorem Part.hasCore_eq_false_iff (p : Part) (n : CoreIdx) : p.hasCore n = false ↔ p.nCores.toNat ≤ n.toNat := by
  simp [Part.hasCore]

theorem Part.hasUnit_cbo_eq_false_iff (p : Part) (i : CboIdx) :
    p.hasUnit (.cbo i) = false ↔ p.nCbo.toNat ≤ i.toNat := by
  simp [Part.hasUnit]

/-! ### Which agents have a step (R10, R312) -/

@[simp] theorem ifEnabled_true (a : Answer) : ifEnabled true a = a := rfl

@[simp] theorem ifEnabled_false (a : Answer) : ifEnabled false a = .refused .agentNotEnabled := rfl

theorem State.canIssue_eq_true_iff (s : State) (n : CoreIdx) :
    s.canIssue n = true ↔ s.part.hasCore n = true ∧ s.pmu.asleep.mem n = false := by
  simp [State.canIssue]

theorem State.canIssue_eq_false_iff (s : State) (n : CoreIdx) :
    s.canIssue n = false ↔ s.pmu.asleep.mem n = true ∨ s.part.nCores.toNat ≤ n.toNat := by
  rw [← Part.hasCore_eq_false_iff, State.canIssue, Bool.and_eq_false_iff, Bool.not_eq_false', or_comm]

/-- A core that can issue runs the instruction that its record decodes to. -/
theorem runAccess_of_decode_ok {n : CoreIdx} {bytes : List Byte} {i : Instr} {s : State} (hc : s.canIssue n = true)
    (hi : decode s.part.imcBar .record bytes = .ok i) : runAccess n bytes s = exec i { s with issuer := n } := by
  simp only [runAccess, hc, hi, ifEnabled_true]

/-- A core that cannot issue is refused before its record is looked at. -/
theorem runAccess_of_not_canIssue {n : CoreIdx} {s : State} (bytes : List Byte) (hc : s.canIssue n = false) :
    runAccess n bytes s = .refused .agentNotEnabled := by
  rw [runAccess, hc, ifEnabled_false]

/-! ### A CBo that the part lacks (R75) -/

/-- A write to a register that the part has leaves the programmable counters of an absent unit as they are. -/
theorem Pmu.writeMsr_slot_of_absent {part : Part} {m : Msr} {u : UnitId} (p : Pmu) (v : Word64) (j : CtrIdx)
    (hm : presentOn part m = true) (hu : part.hasUnit u = false) : (p.writeMsr v m).slot u j = p.slot u j := by
  refine Pmu.writeMsr_slot p v ?_ ?_
  all_goals
    rintro rfl
    exact absurd (hu.symm.trans hm) Bool.false_ne_true

@[simp] theorem countFixed_slot (s : State) (u : UnitId) (j : CtrIdx) :
    (countFixed s).pmu.slot u j = s.pmu.slot u j := by
  rcases countFixed_cases s with ⟨-, e⟩ | ⟨-, -, e⟩ | ⟨-, -, e⟩ <;> simp [e]

@[simp] theorem countImc_slot (c : ImcCtr) (s : State) (u : UnitId) (j : CtrIdx) :
    (countImc c s).pmu.slot u j = s.pmu.slot u j := by
  simp [countImc]

/-- The parameters of the part are constant (R9). -/
theorem step_part {s t : State} (h : step s = .next t) : t.part = s.part := by
  cases step_cases h with
  | unit u c a n0 n1 ha hu h0 h1 he =>
    obtain ⟨-, -, -, -, -, -, -, -, -, -, hpart, -⟩ := he
    exact hpart
  | _ => assumption

/-- A step leaves the programmable counters of an absent unit as they are: a write and a tick reach present units only,
and nothing else reaches a programmable counter. -/
theorem step_slot_of_absent {s t : State} {u : UnitId} (h : step s = .next t) (hu : s.part.hasUnit u = false)
    (j : CtrIdx) : t.pmu.slot u j = s.pmu.slot u j := by
  cases step_cases h with
  | read n v he hc hp => rw [hp]
  | write m v hi hm hpr hp => rw [hp, Pmu.writeMsr_slot_of_absent _ _ _ hpr hu]
  | fixed ha hp => rw [hp, countFixed_slot]
  | unit w c a n0 n1 ha hw h0 h1 he =>
    have hne : u ≠ w := by
      rintro rfl
      exact absurd (hu.symm.trans hw) Bool.false_ne_true
    obtain ⟨-, -, -, -, hother, -⟩ := he
    exact hother u j hne
  | imc c ha hp => rw [hp, countImc_slot]
  | pmi ha hpend hp => rw [hp, deliverPmi_slot]
  | sleep n b ha hc hp => rw [hp, Pmu.slot_set_asleep]

/-! ### The statements -/

/-- Settles O52: from everything a step can do, by the agent that moved. -/
theorem partIsConstantAndAbsentCbosUntouched : Obligations.PartIsConstantAndAbsentCbosUntouched := by
  intro s t h
  exact ⟨step_part h, fun i j hi => step_slot_of_absent h ((s.part.hasUnit_cbo_eq_false_iff i).2 hi) j⟩

/-- Settles O9: the record decodes as given, or it is the record of an operation that fits and is read back from it. -/
theorem stepRunsTheIssuedOperation : Obligations.StepRunsTheIssuedOperation := by
  intro s n rest hcore hawake
  refine ⟨fun bytes i hs hi => ?_, fun a i hs hf hi => ?_, fun a r hs hf hr => ?_⟩
  · have hc : s.canIssue n = true := (s.canIssue_eq_true_iff n).2 ⟨hcore, hawake⟩
    rw [step_of_schedule hs]
    exact runAccess_of_decode_ok hc hi
  · rw [step_of_comes ⟨hcore, hawake, hs⟩ hf, hi]
  · rw [step_of_comes ⟨hcore, hawake, hs⟩ hf, hr]

/-- Settles O11: each agent's step is behind a check, and the check fails. -/
theorem agentsWithoutAStepAreNotRun : Obligations.AgentsWithoutAStepAreNotRun := by
  intro s rest n
  refine ⟨fun bytes hs hn => ?access, fun i c hs hi => ?tick, fun hs hp => ?pmi, fun hs hn => ?sleepOrWake⟩
  case access =>
    rw [step_of_schedule hs]
    exact runAccess_of_not_canIssue bytes ((s.canIssue_eq_false_iff n).2 hn)
  case tick =>
    have hu := (s.part.hasUnit_cbo_eq_false_iff i).2 hi
    rw [step_of_schedule hs]
    simp [runAction, hu]
  case pmi =>
    rw [step_of_schedule hs]
    simp [runAction, hp]
  case sleepOrWake =>
    have hc := (s.part.hasCore_eq_false_iff n).2 hn
    rcases hs with hs | hs <;> rw [step_of_schedule hs] <;> simp [runAction, hc]

end Sys2Proof.Machine

/-! The statements of 10_state.md: who sleeps and who was sent a PMI after a step, and the one copy of the registers
that all cores share. -/

namespace Sys2Proof.Machine

open Sys2Proof

/-! ### The sleeping cores and the targets of a PMI (R27, R46, R301) -/

@[simp] theorem countFixed_asleep (s : State) : (countFixed s).pmu.asleep = s.pmu.asleep := by
  rcases countFixed_cases s with ⟨-, e⟩ | ⟨-, -, e⟩ | ⟨-, -, e⟩ <;> simp [e]

@[simp] theorem countImc_asleep (c : ImcCtr) (s : State) : (countImc c s).pmu.asleep = s.pmu.asleep := rfl

@[simp] theorem State.mem_selectedCores (s : State) (n : CoreIdx) :
    s.selectedCores.mem n = (s.pmu.gctrl.pmiSel.mem n && s.part.hasCore n) := by
  simp [State.selectedCores]

/-- A bit of PMI_SEL beyond the part's cores selects nothing, so a PMI has targets among the part's cores only. -/
theorem State.hasCore_of_mem_pmiTargets {s : State} {n : CoreIdx} (h : s.pmiTargets.mem n = true) :
    s.part.hasCore n = true := by
  have hsel : s.selectedCores.mem n = true := by
    unfold State.pmiTargets at h
    split at h
    · exact h
    · rw [CoreSet.mem_diff, Bool.and_eq_true] at h
      exact h.1
  rw [State.mem_selectedCores, Bool.and_eq_true] at hsel
  exact hsel.2

/-- A delivery can wake cores and puts none to sleep. -/
theorem State.asleep_of_mem_asleepAfterPmi {s : State} {n : CoreIdx} (h : s.asleepAfterPmi.mem n = true) :
    s.pmu.asleep.mem n = true := by
  unfold State.asleepAfterPmi at h
  split at h
  · rw [CoreSet.mem_diff, Bool.and_eq_true] at h
    exact h.1
  · exact h

/-- Nothing but `sleep n` puts a core to sleep, and that step exists for the part's cores only (R312). -/
theorem step_asleep {s t : State} {n : CoreIdx} (h : step s = .next t) (hn : t.pmu.asleep.mem n = true) :
    s.pmu.asleep.mem n = true ∨ s.part.hasCore n = true := by
  cases step_cases h with
  | read k v he hc hp => exact .inl (hp ▸ hn)
  | write m v hi hm hpr hp => rw [hp, Pmu.writeMsr_asleep] at hn; exact .inl hn
  | fixed ha hp => rw [hp, countFixed_asleep] at hn; exact .inl hn
  | unit u c a n0 n1 ha hu h0 h1 he =>
    obtain ⟨-, -, -, -, -, -, -, -, -, hasleep, -⟩ := he
    exact .inl (hasleep ▸ hn)
  | imc c ha hp => rw [hp, countImc_asleep] at hn; exact .inl hn
  | pmi ha hpend hp =>
    rw [hp, deliverPmi_pmu_asleep] at hn
    exact .inl (State.asleep_of_mem_asleepAfterPmi hn)
  | sleep k b ha hc hp =>
    rw [hp] at hn
    by_cases hk : n = k
    · exact .inr (hk ▸ hc)
    · exact .inl ((CoreSet.mem_put_ne _ b hk).symm.trans hn)

/-- Nothing but a delivery emits labels `pmi_delivered(k)`, and its targets are cores of the part. -/
theorem step_delivered {s t : State} {n : CoreIdx} (h : step s = .next t) (hn : n ∈ t.delivered) :
    n ∈ s.delivered ∨ s.part.hasCore n = true := by
  cases step_cases h with
  | unit u c a n0 n1 ha hu h0 h1 he =>
    obtain ⟨-, -, -, -, -, -, -, -, -, -, -, -, -, hd⟩ := he
    exact .inl (hd ▸ hn)
  | pmi ha hpend hp hr hd =>
    rw [hd, deliverPmi_delivered, List.mem_append, CoreSet.mem_toList] at hn
    exact hn.imp_right State.hasCore_of_mem_pmiTargets
  | read k v he hc hp hr hd | write m v hi hm hpr hp hr hd | fixed ha hp hr hd | imc c ha hp hr hd
  | sleep k b ha hc hp hr hd => exact .inl (hd ▸ hn)

/-! ### One operation from two cores (R43) -/

/-- A write goes through where no reserved bit is set, and where RESERVED_WRITE ignores them (converse of
`writeMsr_next`). -/
theorem writeMsr_of_accepted {mask v : Word64} {s : State} (p : Pmu)
    (h : v &&& ~~~mask = 0#64 ∨ s.part.reservedWrite = .ignore) : writeMsr mask v s p = .next (s.withPmu p) := by
  rcases h with hv | hr
  · exact writeMsr_of_defined s p hv
  · simp [writeMsr, hr]

theorem exec_imcRdInstr (c : ImcCtr) (s : State) : exec c.rdInstr s = readImc c s := by
  cases c <;> rfl

/-- A register's value does not depend on the core that reads it. -/
theorem State.msrValue_set_issuer (s : State) (n : CoreIdx) (r : Msr) :
    ({ s with issuer := n } : State).msrValue r = s.msrValue r := by
  cases r <;> rfl

/-- The core that issues an operation decides which core receives the value of a read, and nothing else: no register is
kept per core. -/
theorem exec_next_from_other_core {bar : Nat} {bytes : List Byte} {i : Instr} {s t : State} {n : CoreIdx} (m : CoreIdx)
    (hi : decode bar .record bytes = .ok i) (h : exec i { s with issuer := n } = .next t) :
    (∃ v, t.results = s.results.put n v ∧
      exec i { s with issuer := m } = .next { t with issuer := m, results := s.results.put m v }) ∨
    t.results = s.results ∧ exec i { s with issuer := m } = .next { t with issuer := m } := by
  obtain ⟨a, -, ha⟩ := decode_record_ok hi
  rcases toInstr_ok ha with ⟨r, rfl⟩ | ⟨r, v, rfl⟩ | ⟨k, rfl⟩ | ⟨c, rfl⟩ | rfl | rfl
  case inl =>
    obtain ⟨hp, rfl⟩ := exec_rdInstr_next h
    have hm : presentOn ({ s with issuer := m } : State).part r = true := hp
    refine .inl ⟨_, rfl, ?_⟩
    rw [exec_rdInstr hm, State.msrValue_set_issuer, State.msrValue_set_issuer]
    rfl
  case inr.inl =>
    obtain ⟨hr, hp, rfl⟩ := exec_wrInstr_next h
    rw [exec_wrInstr hr hp] at h
    have hm : presentOn ({ s with issuer := m } : State).part r = true := hp
    obtain ⟨-, haccepted⟩ := writeMsr_next h
    refine .inr ⟨rfl, ?_⟩
    rw [exec_wrInstr hr hm]
    exact writeMsr_of_accepted _ haccepted
  case inr.inr.inl => cases h
  case inr.inr.inr.inl =>
    rw [exec_imcRdInstr] at h ⊢
    cases h
    exact .inl ⟨_, rfl, rfl⟩
  all_goals
    cases h
    exact .inl ⟨_, rfl, rfl⟩

/-! ### The statements -/

/-- Settles O50: at reset no core sleeps and no PMI was delivered. -/
theorem invariantAtReset : Obligations.InvariantAtReset := by
  have hasleep : State.reset.pmu.asleep = CoreSet.empty := rfl
  have hdelivered : State.reset.delivered = [] := rfl
  refine ⟨fun n hn => ?_, fun n hn => ?_⟩
  · rw [hasleep, CoreSet.mem_empty] at hn
    cases hn
  · rw [hdelivered] at hn
    cases hn

/-- Settles O51: a sleeper or a receiver of a PMI after the step was one before it, or the step names a core of the
part; the part is constant. -/
theorem invariantKeptByEveryStep : Obligations.InvariantKeptByEveryStep := by
  rintro s t ⟨hasleep, hdelivered⟩ h
  refine ⟨fun n hn => ?_, fun n hn => ?_⟩ <;> rw [step_part h]
  · exact (step_asleep h hn).elim (hasleep n) id
  · exact (step_delivered h hn).elim (hdelivered n) id

/-- Settles O55: the value itself is the same, since the reserved bits of a read are drawn from the state and not from
the core. -/
theorem coresShareOneCopy : Obligations.CoresShareOneCopy := by
  intro s t n m bytes hm h
  obtain ⟨hn, i, hi, -⟩ := runAccess_next h
  have hrun (k : CoreIdx) (hk : s.canIssue k = true) :
      runAction (.access k bytes) s = exec i { s with issuer := k } := runAccess_of_decode_ok hk hi
  rw [hrun n hn] at h
  rw [hrun m hm]
  rcases exec_next_from_other_core m hi h with ⟨v, hv, ht⟩ | ⟨hr, ht⟩
  · exact ⟨_, ht, rfl, .inr ⟨v, v, hv, rfl, .inl rfl⟩⟩
  · exact ⟨_, ht, rfl, .inl ⟨hr, hr⟩⟩

end Sys2Proof.Machine

/-! The statements of 20_memory.md: the address map of the registers and the words of physical memory, what an access
outside them answers, and what a read and a write leave as they are. -/

namespace Sys2Proof

/-! ### Every index, by a list -/

/-- The numbers of the CBos, in rising order. -/
def CboIdx.all : List CboIdx := [.c0, .c1, .c2, .c3]

/-- The two counter indices of a unit. -/
def CtrIdx.all : List CtrIdx := [.k0, .k1]

@[simp] theorem CboIdx.mem_all (i : CboIdx) : i ∈ CboIdx.all := by cases i <;> decide

@[simp] theorem CtrIdx.mem_all (j : CtrIdx) : j ∈ CtrIdx.all := by cases j <;> decide

@[simp] theorem ImcCtr.mem_all (c : ImcCtr) : c ∈ ImcCtr.all := by cases c <;> decide

/-! ### Which operations have an instruction (R72, R73, R77, R80) -/

theorem Msr.ofAddr_eq_none_iff {a : Word32} : Msr.ofAddr a = none ↔ ∀ m : Msr, m.addr ≠ a := by
  constructor
  · rintro h m rfl
    simp at h
  · intro h
    cases hm : Msr.ofAddr a with
    | none => rfl
    | some m => exact absurd (Msr.addr_of_ofAddr hm) (h m)

theorem ImcCtr.atAddr_eq_none_iff {bar p : Nat} :
    ImcCtr.atAddr bar p = none ↔ ∀ c : ImcCtr, p ≠ bar + c.offset := by
  constructor
  · rintro h c rfl
    simp at h
  · intro h
    cases hc : ImcCtr.atAddr bar p with
    | none => rfl
    | some c => exact absurd (ImcCtr.offset_of_atAddr hc).symm (h c)

theorem Access.toInstr_rdmsr_addr (bar : Nat) (m : Msr) : (Access.rdmsr m.addr).toInstr bar = .ok m.rdInstr := by
  simp [Access.toInstr]

theorem Access.toInstr_wrmsr_addr (bar : Nat) (m : Msr) (v : Word64) :
    (Access.wrmsr m.addr v).toInstr bar = .ok (m.wrInstr v) := by
  simp [Access.toInstr]

theorem Access.toInstr_rdmsr_of_unlisted (bar : Nat) {a : Word32} (h : ∀ m : Msr, m.addr ≠ a) :
    (Access.rdmsr a).toInstr bar = .error .notAPmuMsr := by
  simp [Access.toInstr, Msr.ofAddr_eq_none_iff.2 h]

theorem Access.toInstr_wrmsr_of_unlisted (bar : Nat) {a : Word32} (v : Word64) (h : ∀ m : Msr, m.addr ≠ a) :
    (Access.wrmsr a v).toInstr bar = .error .notAPmuMsr := by
  simp [Access.toInstr, Msr.ofAddr_eq_none_iff.2 h]

theorem Access.toInstr_memRead_word (bar : Nat) (c : ImcCtr) :
    (Access.memRead (bar + c.offset) 4).toInstr bar = .ok c.rdInstr := by
  simp [Access.toInstr]

/-- A read that is not exactly one of the five words has no instruction. -/
theorem Access.toInstr_memRead_of_no_word {bar p n : Nat} (h : ∀ c : ImcCtr, p = bar + c.offset → n ≠ 4) :
    (Access.memRead p n).toInstr bar
      = .error (if imcOverlaps bar p n then .unsupportedMmioAccess else .notAPmuAddress) := by
  have hnone : (if n = 4 then ImcCtr.atAddr bar p else none) = none := by
    split
    next hn => exact ImcCtr.atAddr_eq_none_iff.2 fun c hp => h c hp hn
    next => rfl
  simp [Access.toInstr, hnone]

end Sys2Proof

namespace Sys2Proof.Machine

open Sys2Proof

/-! ### The rows of the tables are those of the registers and of the IMC counters (R72, R106, R263)

The rows are written out apart from `Msr.addr`, `Msr.rdInstr` and `Msr.wrInstr`; here the two are compared. -/

/-- The row of a register in the address map. -/
def rowOf (m : Msr) : Word32 × Instr × (Word64 → Instr) := (m.addr, m.rdInstr, fun v => m.wrInstr v)

/-- The indices of the CBos' counters, in the order of `cboSelRows` and `cboCtrRows`. -/
def cboSlots : List (CboIdx × CtrIdx) := CboIdx.all.product CtrIdx.all

/-- The registers, in the order of `msrRows`. -/
def rowOrder : List Msr :=
  [.globalCtrl, .globalStatus, .fixedCtrl, .fixedCtr, .cboConfig] ++ CtrIdx.all.map (Msr.perfCtr .arb)
    ++ CtrIdx.all.map (Msr.perfEvtSel .arb) ++ cboSlots.map (fun x => Msr.perfEvtSel (.cbo x.1) x.2)
    ++ cboSlots.map (fun x => Msr.perfCtr (.cbo x.1) x.2)

@[simp] theorem mem_cboSlots (x : CboIdx × CtrIdx) : x ∈ cboSlots := by
  obtain ⟨i, j⟩ := x
  exact List.pair_mem_product.2 ⟨i.mem_all, j.mem_all⟩

theorem mem_rowOrder (m : Msr) : m ∈ rowOrder := by
  cases m with
  | perfCtr u j => cases u <;> simp [rowOrder]
  | perfEvtSel u j => cases u <;> simp [rowOrder]
  | _ => simp [rowOrder]

theorem cboSelRows_eq : cboSelRows = cboSlots.map fun x => (x.1, x.2, rowOf (.perfEvtSel (.cbo x.1) x.2)) := rfl

theorem cboCtrRows_eq : cboCtrRows = cboSlots.map fun x => (x.1, x.2, rowOf (.perfCtr (.cbo x.1) x.2)) := rfl

theorem msrRows_eq : msrRows = rowOrder.map rowOf := rfl

theorem imcRows_eq : imcRows = ImcCtr.all.map fun c => (c, c.offset, c.rdInstr) := rfl

theorem mem_cboSelRows {r : CboIdx × CtrIdx × Word32 × Instr × (Word64 → Instr)} :
    r ∈ cboSelRows ↔ ∃ i j, (i, j, rowOf (.perfEvtSel (.cbo i) j)) = r := by
  simp [cboSelRows_eq]

theorem mem_cboCtrRows {r : CboIdx × CtrIdx × Word32 × Instr × (Word64 → Instr)} :
    r ∈ cboCtrRows ↔ ∃ i j, (i, j, rowOf (.perfCtr (.cbo i) j)) = r := by
  simp [cboCtrRows_eq]

theorem mem_msrRows {r : Word32 × Instr × (Word64 → Instr)} : r ∈ msrRows ↔ ∃ m, rowOf m = r := by
  simp [msrRows_eq, mem_rowOrder]

theorem mem_imcRows {r : ImcCtr × Nat × Instr} : r ∈ imcRows ↔ ∃ c : ImcCtr, (c, c.offset, c.rdInstr) = r := by
  simp [imcRows_eq]

/-! ### Records and physical memory -/

/-- A record whose bytes are those of an operation that fits decodes to the operation's instruction. -/
theorem decode_of_eq_encode {bar : Nat} {bs : List Byte} {i : Instr} (a : Access) (hbs : bs = a.encode) (hf : Fits a)
    (hi : a.toInstr bar = .ok i) : decode bar .record bs = .ok i := by
  simp only [decode, hbs, decodeRecord_encode hf, hi]

/-- The word of a counter has a byte of that counter in it. -/
theorem overlapsImc_word (bar : Nat) (c : ImcCtr) : OverlapsImc bar (bar + c.offset) 4 :=
  ⟨_, mem_imcRows.2 ⟨c, rfl⟩, bar + c.offset, by simp⟩

/-- MMIO_RD32 of a counter returns the whole count (R266). -/
theorem readImc_returns (c : ImcCtr) (s : State) : Returns (s.pmu.imc.get c).toNat s (readImc c s) :=
  ⟨(s.pmu.imc.get c).setWidth 64, BitVec.toNat_setWidth_of_le (by decide), rfl⟩

/-! ### What a read leaves as it is (R84) -/

/-- The instruction is a read: of a register, of an IMC counter, or of a half of the configuration value. -/
def IsRead (i : Instr) : Prop :=
  (∃ m, i = Msr.rdInstr m) ∨ (∃ c, i = ImcCtr.rdInstr c) ∨ i = .cfgRd32Lo ∨ i = .cfgRd32Hi

/-- A read that completes gives the issuing core a value; a read of a register makes one draw besides. -/
theorem exec_next_of_isRead {i : Instr} {s t : State} (hi : IsRead i) (h : exec i s = .next t) :
    ∃ v, t = s.giveResult v ∨ t = (s.giveResult v).drawn := by
  rcases hi with ⟨m, rfl⟩ | ⟨c, rfl⟩ | rfl | rfl
  · obtain ⟨-, ht⟩ := exec_rdInstr_next h
    exact ⟨_, .inr ht⟩
  · rw [exec_imcRdInstr] at h
    exact ⟨_, .inl (read32_next h)⟩
  · exact ⟨_, .inl (read32_next h)⟩
  · exact ⟨_, .inl (read32_next h)⟩

/-! ### The statements -/

/-- Settles O5: no register has the address, so the decoder gives the operation no instruction. -/
theorem unlistedMsrAddressesRefused : Obligations.UnlistedMsrAddressesRefused := by
  intro s n rest a v ha
  have hno (m : Msr) : m.addr ≠ a := ha (rowOf m) (mem_msrRows.2 ⟨m, rfl⟩)
  refine ⟨fun hs => ?_, fun hs => ?_⟩
  · rw [step_of_comes hs trivial, Access.toInstr_rdmsr_of_unlisted _ hno]
  · rw [step_of_comes hs trivial, Access.toInstr_wrmsr_of_unlisted _ v hno]

/-- Settles O6: the five words are the only reads with an instruction, and the reason for every other refusal is
whether the range shares a byte with one of them, as the whole words do. -/
theorem physicalMemoryAccesses : Obligations.PhysicalMemoryAccesses := by
  intro s c rest p n hp hn
  refine ⟨fun hs => ⟨?readWord, ?readOverlap, ?readOutside⟩, fun hs => ⟨?writeOverlap, ?writeOutside⟩⟩ <;>
    rw [step_of_comes hs ⟨hp, hn⟩]
  case readWord =>
    rintro r hr rfl rfl
    obtain ⟨d, rfl⟩ := mem_imcRows.1 hr
    rw [Access.toInstr_memRead_word]
    simp only [exec_imcRdInstr]
    exact readImc_returns d { s with schedule := rest, issuer := c }
  case readOverlap =>
    intro hno ho
    have hword (d : ImcCtr) (hd : p = s.part.imcBar + d.offset) : n ≠ 4 :=
      fun h4 => hno ⟨_, mem_imcRows.2 ⟨d, rfl⟩, hd, h4⟩
    rw [Access.toInstr_memRead_of_no_word hword, if_pos ((overlapsImc_iff ..).1 ho)]
  case readOutside =>
    intro ho
    have hword (d : ImcCtr) (hd : p = s.part.imcBar + d.offset) : n ≠ 4 := by
      rintro rfl
      exact ho (hd ▸ overlapsImc_word _ d)
    rw [Access.toInstr_memRead_of_no_word hword, if_neg (mt (overlapsImc_iff ..).2 ho)]
  case writeOverlap =>
    intro ho
    rw [Access.toInstr, if_pos ((overlapsImc_iff ..).1 ho)]
  case writeOutside =>
    intro ho
    rw [Access.toInstr, if_neg (mt (overlapsImc_iff ..).2 ho)]

/-- Settles O53: a read only gives the issuing core a value, and draws. -/
theorem readsHaveNoSideEffect : Obligations.ReadsHaveNoSideEffect := by
  intro s t i hi h
  have hread : IsRead i := by
    rcases hi with ⟨r, hr, rfl⟩ | ⟨r, hr, rfl⟩ | hcfg
    · obtain ⟨m, rfl⟩ := mem_msrRows.1 hr
      exact .inl ⟨m, rfl⟩
    · obtain ⟨c, rfl⟩ := mem_imcRows.1 hr
      exact .inr (.inl ⟨c, rfl⟩)
    · exact .inr (.inr hcfg)
  obtain ⟨v, rfl | rfl⟩ := exec_next_of_isRead hread h <;>
    exact ⟨rfl, rfl, rfl, rfl, rfl, rfl, rfl, fun n hn => PerCore.get_put_ne _ v hn⟩

/-- Settles O54: a write that completes has replaced the PMU by one that differs in its register only. -/
theorem writeChangesOnlyItsRegister : Obligations.WriteChangesOnlyItsRegister := by
  intro m s t v h
  obtain ⟨-, -, rfl⟩ := exec_wrInstr_next h
  exact ⟨Pmu.writeMsr_gctrl _ v, Pmu.writeMsr_gstat _ v, Pmu.writeMsr_fctrl _ v, Pmu.writeMsr_fctr _ v,
    fun u j => ⟨Pmu.writeMsr_sel _ v, Pmu.writeMsr_ctr _ v, Pmu.writeMsr_prevActive _ v m u j⟩,
    Pmu.writeMsr_imc _ v m, Pmu.writeMsr_pmiPending _ v m, Pmu.writeMsr_asleep _ v m,
    rfl, rfl, rfl, rfl, rfl, rfl, rfl, rfl⟩

/-- Settles O1: each record is that of the operation named here, whose operand the map lists; the words of the other
places are read field by field. -/
theorem wordsDecodeToTheirInstructions : Obligations.WordsDecodeToTheirInstructions := by
  refine ⟨?readRegister, ?writeRegister, ?readMemory, ?readConfiguration, ?cboEvent, ?arbEvent, ?label⟩
  case readRegister =>
    exact decode_of_eq_encode (.rdmsr 0xE01#32) rfl trivial (Access.toInstr_rdmsr_addr 0 .globalCtrl)
  case writeRegister =>
    exact decode_of_eq_encode (.wrmsr 0x711#32 0x00404422#64) rfl trivial
      (Access.toInstr_wrmsr_addr 0 (.perfEvtSel (.cbo .c1) .k1) _)
  case readMemory =>
    exact decode_of_eq_encode (.memRead (0xFED10000 + 0x5050) 4) (by decide) ⟨by decide, by decide⟩
      (Access.toInstr_memRead_word 0xFED10000 .dataReads)
  case readConfiguration => exact decode_of_eq_encode (.cfgRd32 0#8 0#8 0#8 0x4C#32) rfl trivial rfl
  case cboEvent => rfl
  case arbEvent => rfl
  case label => rfl

/-- Settles O4: a row of the map is the row of a register. -/
theorem listedMsrAddressesDecode : Obligations.ListedMsrAddressesDecode := by
  intro r hr bar v
  obtain ⟨m, rfl⟩ := mem_msrRows.1 hr
  exact ⟨Access.toInstr_rdmsr_addr bar m, Access.toInstr_wrmsr_addr bar m v⟩

/-- Settles O31: a row of a CBo is the row of one of its registers, which is not present on the part. -/
theorem absentCboRefused : Obligations.AbsentCboRefused := by
  intro r hr s v habsent
  have hunit : s.part.hasUnit (.cbo r.1) = false := (s.part.hasUnit_cbo_eq_false_iff r.1).2 habsent
  rcases List.mem_append.1 hr with hr | hr
  · obtain ⟨i, j, rfl⟩ := mem_cboSelRows.1 hr
    exact exec_absent (m := .perfEvtSel (.cbo i) j) v hunit
  · obtain ⟨i, j, rfl⟩ := mem_cboCtrRows.1 hr
    exact exec_absent (m := .perfCtr (.cbo i) j) v hunit

end Sys2Proof.Machine

/-! The statements of 30_encoding.md: the decoder and the encoder undo each other place by place, the event-code map
is the list of the spec, and what a reserved bit does in a write. -/

namespace Sys2Proof

/-! ### The table row of an instruction (R100, R110, R122)

`Instr.form` is the encoder's half of the table; here it is compared with `Msr.rdInstr`, `Msr.wrInstr`,
`ImcCtr.rdInstr`, `cboEvents` and `arbEvents`, the decoder's half. -/

theorem Msr.form_rdInstr (m : Msr) : m.rdInstr.form = .access (.rdmsr m.addr) := by
  rcases m with _ | _ | _ | _ | _ | ⟨_ | i, j⟩ | ⟨_ | i, j⟩
  case perfCtr.cbo | perfEvtSel.cbo => cases i <;> cases j <;> rfl
  case perfCtr.arb | perfEvtSel.arb => cases j <;> rfl
  all_goals rfl

theorem Msr.form_wrInstr (m : Msr) (v : Word64) : (m.wrInstr v).form = .access (.wrmsr m.addr v) := by
  rcases m with _ | _ | _ | _ | _ | ⟨_ | i, j⟩ | ⟨_ | i, j⟩
  case perfCtr.cbo | perfEvtSel.cbo => cases i <;> cases j <;> rfl
  case perfCtr.arb | perfEvtSel.arb => cases j <;> rfl
  all_goals rfl

theorem ImcCtr.form_rdInstr (c : ImcCtr) : c.rdInstr.form = .mmio c := by
  cases c <;> rfl

/-- The instruction of a row of the CBo map has the row's code. -/
theorem form_of_mem_cboEvents {r : BitVec 16 × (CboIdx → CtrIdx → CountMode → Instr)} (i : CboIdx) (j : CtrIdx)
    (mode : CountMode) (hr : r ∈ cboEvents) : (r.2 i j mode).form = .event (.cbo i) j r.1 mode :=
  List.map_inj_left (f := fun r => (r.2 i j mode).form) (g := fun r => Form.event (.cbo i) j r.1 mode).1 rfl r hr

/-- The instruction of a row of the ARB map has the row's code. -/
theorem form_of_mem_arbEvents {r : BitVec 16 × (CtrIdx → CountMode → Instr)} (j : CtrIdx) (mode : CountMode)
    (hr : r ∈ arbEvents) : (r.2 j mode).form = .event .arb j r.1 mode :=
  List.map_inj_left (f := fun r => (r.2 j mode).form) (g := fun r => Form.event .arb j r.1 mode).1 rfl r hr

theorem mem_of_lookup {α β : Type} [BEq α] [LawfulBEq α] {l : List (α × β)} {k : α} {b : β}
    (h : l.lookup k = some b) : (k, b) ∈ l := by
  obtain ⟨l₁, l₂, rfl, -⟩ := List.lookup_eq_some_iff.1 h
  simp

/-- Only the two rows of code 0x0180 have a check of THR. -/
theorem Instr.wellFormed_of_form {i : Instr} (h : ∀ mode, i.form ≠ .event .arb .k0 0x0180#16 mode) :
    i.wellFormed = true := by
  unfold Instr.wellFormed
  split
  next mode => exact absurd rfl (h mode)
  next mode => exact absurd rfl (h mode)
  next => rfl

/-! ### Event selections (R108 to R114) -/

/-- The event that a code selects is a well-formed instruction of that code and mode. -/
theorem form_of_decodeEvent {u : UnitId} {j : CtrIdx} {x : EvtSel} {i : Instr} (h : decodeEvent u j x = some i) :
    i.form = .event u j (x.umask ++ x.evt) x.mode ∧ i.wellFormed = true := by
  cases u with
  | cbo c =>
    obtain ⟨mk, hmk, rfl⟩ := Option.map_eq_some_iff.1 h
    have hform := form_of_mem_cboEvents c j x.mode (mem_of_lookup hmk)
    exact ⟨hform, Instr.wellFormed_of_form (by simp [hform])⟩
  | arb =>
    simp only [decodeEvent, decodeArbEvent] at h
    split at h
    next hcode =>
      rw [hcode]
      cases j with
      | k1 => cases h
      | k0 =>
        cases h
        split
        next hthr => exact ⟨rfl, beq_iff_eq.2 hthr⟩
        next hthr => exact ⟨rfl, bne_iff_ne.2 hthr⟩
    next hcode =>
      obtain ⟨mk, hmk, rfl⟩ := Option.map_eq_some_iff.1 h
      have hform := form_of_mem_arbEvents j x.mode (mem_of_lookup hmk)
      exact ⟨hform, Instr.wellFormed_of_form (by simp [hform, hcode])⟩

end Sys2Proof

namespace Sys2Proof.Machine

open Sys2Proof

/-- A well-formed event row is what its code and mode select. -/
theorem decodeEvent_of_form {u : UnitId} {j : CtrIdx} {code : BitVec 16} {x : EvtSel} {i : Instr}
    (h : i.form = .event u j code x.mode) (hcode : x.umask ++ x.evt = code) (hw : i.wellFormed = true) :
    decodeEvent u j x = some i := by
  obtain ⟨mode, umask, evt⟩ := x
  cases i <;> cases h
  case arbTrkOccupancyAll =>
    obtain ⟨rfl, rfl⟩ := (code_eq_iff umask evt 0x01#8 0x80#8).1 hcode
    rw [decodeEvent_arb_occupancy]
    simp only [if_neg (bne_iff_ne.1 hw)]
  case arbTrkOccupancyCyclesWithAnyRequest =>
    obtain ⟨rfl, rfl⟩ := (code_eq_iff umask evt 0x01#8 0x80#8).1 hcode
    rw [decodeEvent_arb_occupancy]
    simp only [if_pos (beq_iff_eq.1 hw)]
  case arbTrkRequestsAll | arbTrkRequestsWrites | arbCohTrkRequestsAll =>
    exact decodeEvent_arb_of_code _ hcode (by decide) rfl
  all_goals exact decodeEvent_cbo_of_code _ hcode rfl

/-- The code of the register content that the encoder makes. -/
theorem evtSelOf_code (code : BitVec 16) (mode : CountMode) :
    (evtSelOf code mode).umask ++ (evtSelOf code mode).evt = code := by
  have hhalves : code.extractLsb' 8 8 ++ code.extractLsb' 0 8 = code.extractLsb' 0 (8 + 8) :=
    BitVec.extractLsb'_append_extractLsb'_eq_extractLsb' rfl
  exact hhalves.trans BitVec.extractLsb'_eq_self

/-- The words of an event row are the register content that selects it. -/
theorem encode_of_decodeEvent {u : UnitId} {j : CtrIdx} {x : EvtSel} {i : Instr} (bar : Nat)
    (h : decodeEvent u j x = some i) : encode bar i = (.slot u j, bytes64 x.pack) := by
  simp only [encode, (form_of_decodeEvent h).1, evtSelOf_append]

/-- The words that stand for an event in an event-select register are the packed contents that select it. -/
theorem decodeEventWord_eq_ok_iff {u : UnitId} {j : CtrIdx} {v : Word64} {i : Instr} :
    decodeEventWord u j v = .ok i ↔ ∃ x : EvtSel, v = x.pack ∧ decodeEvent u j x = some i := by
  constructor
  · intro h
    unfold decodeEventWord at h
    split at h
    next hv =>
      refine ⟨EvtSel.unpack v, (EvtSel.pack_unpack hv).symm, ?_⟩
      split at h
      next hi => cases h; exact hi
      next => cases h
    next => cases h
  · rintro ⟨x, rfl, hx⟩
    simp [decodeEventWord, hx]

theorem decode_slot_eq_ok_iff {bar : Nat} {u : UnitId} {j : CtrIdx} {bs : List Byte} {i : Instr} :
    decode bar (.slot u j) bs = .ok i ↔ ∃ x : EvtSel, bs = bytes64 x.pack ∧ decodeEvent u j x = some i := by
  constructor
  · intro h
    simp only [decode] at h
    split at h
    next v0 v1 v2 v3 v4 v5 v6 v7 =>
      obtain ⟨x, hx, hi⟩ := decodeEventWord_eq_ok_iff.1 h
      exact ⟨x, by rw [← hx, bytes64_le64], hi⟩
    next => cases h
  · rintro ⟨x, rfl, hx⟩
    simp only [decode, bytes64, le64_bytes]
    exact decodeEventWord_eq_ok_iff.2 ⟨x, rfl, hx⟩

/-- The label of the fixed counter is 0x0100 and no other (R110, R246). -/
theorem decode_fixed_eq_ok_iff {bar : Nat} {bs : List Byte} {i : Instr} :
    decode bar .fixed bs = .ok i ↔ bs = [0x00#8, 0x01#8] ∧ i = .clockSocket := by
  constructor
  · intro h
    simp only [decode] at h
    split at h
    next lo hi =>
      split at h
      next hlabel =>
        obtain ⟨rfl, rfl⟩ := (code_eq_iff hi lo 0x01#8 0x00#8).1 hlabel
        cases h
        exact ⟨rfl, rfl⟩
      next => cases h
    next => cases h
  · rintro ⟨rfl, rfl⟩
    rfl

/-! ### Operation records (R100 to R105) -/

/-- The fields of a record that stand for an operation are those of its encoding, and the operation fits. -/
theorem encode_of_accessOf {k b d f : Byte} {a : Word32} {v : Word64} {x : Access} (h : accessOf k a b d f v = .ok x) :
    x.encode = bytes32 a ++ [k, b, d, f] ++ bytes64 v ∧ Fits x := by
  unfold accessOf at h
  split at h
  next hk =>
    split at h
    next hv => cases h; subst hk hv; exact ⟨rfl, trivial⟩
    next => cases h
  split at h
  next hloc =>
    obtain ⟨rfl, rfl, rfl⟩ := hloc
    split at h
    next hk => cases h; subst hk; exact ⟨rfl, trivial⟩
    split at h
    next hk => cases h; subst hk; exact ⟨by simp [Access.encode], v.isLt, a.isLt⟩
    split at h
    next hk => cases h; subst hk; exact ⟨by simp [Access.encode], v.isLt, a.isLt⟩
    split at h
    next hv =>
      subst hv
      split at h
      next hk => cases h; subst hk; exact ⟨rfl, trivial⟩
      split at h
      next hk => cases h; subst hk; exact ⟨rfl, trivial⟩
      next => cases h
    next => cases h
  next => cases h

/-- The records that the decoder reads are the encodings of the operations that fit. -/
theorem decodeRecord_eq_ok_iff {bs : List Byte} {a : Access} : decodeRecord bs = .ok a ↔ bs = a.encode ∧ Fits a := by
  constructor
  · intro h
    obtain ⟨_, _, _, _, _, _, rfl, hx⟩ := decodeRecord_ok h
    obtain ⟨he, hf⟩ := encode_of_accessOf hx
    exact ⟨he.symm, hf⟩
  · rintro ⟨rfl, hf⟩
    exact decodeRecord_encode hf

theorem decode_record_eq_ok_iff {bar : Nat} {bs : List Byte} {i : Instr} :
    decode bar .record bs = .ok i ↔ ∃ a : Access, bs = a.encode ∧ Fits a ∧ a.toInstr bar = .ok i := by
  constructor
  · intro h
    obtain ⟨a, ha, hi⟩ := decode_record_ok h
    obtain ⟨hbs, hf⟩ := decodeRecord_eq_ok_iff.1 ha
    exact ⟨a, hbs, hf, hi⟩
  · rintro ⟨a, hbs, hf, hi⟩
    exact decode_of_eq_encode a hbs hf hi

/-- A read of physical memory with an instruction is one of the five words (R77, R80). -/
theorem toInstr_memRead_eq_ok {bar p n : Nat} {i : Instr} (h : (Access.memRead p n).toInstr bar = .ok i) :
    ∃ c : ImcCtr, p = bar + c.offset ∧ n = 4 ∧ i = c.rdInstr := by
  by_cases hword : ∃ c : ImcCtr, p = bar + c.offset ∧ n = 4
  · obtain ⟨c, rfl, rfl⟩ := hword
    rw [Access.toInstr_memRead_word] at h
    cases h
    exact ⟨c, rfl, rfl, rfl⟩
  · rw [Access.toInstr_memRead_of_no_word fun c hp hn => hword ⟨c, hp, hn⟩] at h
    cases h

/-- The words of a row that names an operation are its record; such a row has no check of THR. -/
theorem encode_of_form_access {a : Access} {i : Instr} (bar : Nat) (h : i.form = .access a) :
    encode bar i = (.record, a.encode) ∧ i.wellFormed = true :=
  ⟨by simp only [encode, h], Instr.wellFormed_of_form (by simp [h])⟩

/-- The words of a row of an IMC counter are the record of the read of its word (R104, R263). -/
theorem encode_imcRdInstr (bar : Nat) (c : ImcCtr) :
    encode bar c.rdInstr = (.record, (Access.memRead (bar + c.offset) 4).encode) ∧ c.rdInstr.wellFormed = true :=
  ⟨by simp only [encode, c.form_rdInstr], Instr.wellFormed_of_form (by simp [c.form_rdInstr])⟩

/-- An operation that stands for an instruction is the one in the instruction's words. -/
theorem encode_of_toInstr {bar : Nat} {a : Access} {i : Instr} (h : a.toInstr bar = .ok i) :
    encode bar i = (.record, a.encode) ∧ i.wellFormed = true := by
  cases a with
  | rdmsr a =>
    simp only [Access.toInstr] at h
    split at h
    next m hm =>
      obtain rfl := Msr.addr_of_ofAddr hm
      cases h
      exact encode_of_form_access bar m.form_rdInstr
    next => cases h
  | wrmsr a v =>
    simp only [Access.toInstr] at h
    split at h
    next m hm =>
      obtain rfl := Msr.addr_of_ofAddr hm
      cases h
      exact encode_of_form_access bar (m.form_wrInstr v)
    next => cases h
  | rdpmc k => cases h; exact encode_of_form_access bar rfl
  | memRead p n =>
    obtain ⟨c, rfl, rfl, rfl⟩ := toInstr_memRead_eq_ok h
    exact encode_imcRdInstr bar c
  | memWrite p n => cases h
  | cfgRd32 b d f o =>
    simp only [Access.toInstr] at h
    split at h
    next hloc => obtain ⟨rfl, rfl, rfl, rfl⟩ := hloc; cases h; exact encode_of_form_access bar rfl
    split at h
    next hloc => obtain ⟨rfl, rfl, rfl, rfl⟩ := hloc; cases h; exact encode_of_form_access bar rfl
    next => cases h

/-- The operation that a row names stands for the row's instruction: RDPMC and the configuration reads by themselves,
RDMSR and WRMSR because the address of a register finds it again. -/
theorem toInstr_of_form_access {a : Access} {i : Instr} (bar : Nat) (h : i.form = .access a) :
    a.toInstr bar = .ok i := by
  cases i <;> cases h
  case rdpmc => rfl
  case cfgRd32Lo => rfl
  case cfgRd32Hi => rfl
  all_goals simp only [Access.toInstr, Msr.ofAddr_addr, Msr.rdInstr, Msr.wrInstr]

theorem eq_rdInstr_of_form_mmio {c : ImcCtr} {i : Instr} (h : i.form = .mmio c) : i = c.rdInstr := by
  cases i <;> cases h <;> rfl

theorem eq_clockSocket_of_form_label {i : Instr} (h : i.form = .label) : i = .clockSocket := by
  cases i <;> cases h
  rfl

/-- A word of the IMC window has a 64-bit address (log 8). -/
theorem fits_memRead_word {bar : Nat} (c : ImcCtr) (h : WindowFits bar) : Fits (.memRead (bar + c.offset) 4) := by
  have hoffset : c.offset < 0x5058 := by cases c <;> decide
  unfold WindowFits at h
  exact ⟨by omega, by decide⟩

/-- An operation that a row names has no address of physical memory in it, so it fits its record. -/
theorem fits_of_form_access {a : Access} {i : Instr} (h : i.form = .access a) : Fits a := by
  cases i <;> cases h <;> trivial

/-! ### Writes with a reserved bit (R118) -/

theorem writeMsr_refuses_reserved {mask v : Word64} {s : State} (p : Pmu) (hv : v &&& ~~~mask ≠ 0#64)
    (hr : s.part.reservedWrite = .refuse) : writeMsr mask v s p = .refused .reservedBitSet := by
  rw [writeMsr, if_neg hv, hr]

theorem writeMsr_faults_on_reserved {mask v : Word64} {s : State} (p : Pmu) (hv : v &&& ~~~mask ≠ 0#64)
    (hr : s.part.reservedWrite = .fault) : writeMsr mask v s p = .fault .reservedBitSet := by
  rw [writeMsr, if_neg hv, hr]

/-- A field that lies within a mask is the same in the masked value. -/
theorem extractLsb'_and_of_field {v mask : Word64} {k n : Nat} (h : mask.extractLsb' k n = BitVec.allOnes n) :
    (v &&& mask).extractLsb' k n = v.extractLsb' k n := by
  rw [BitVec.extractLsb'_and, h, BitVec.and_allOnes]

theorem setWidth_and_of_field {v mask : Word64} {n : Nat} (h : mask.setWidth n = BitVec.allOnes n) :
    (v &&& mask).setWidth n = v.setWidth n := by
  rw [BitVec.setWidth_and, h, BitVec.and_allOnes]

theorem GlobalCtrl.unpack_and_mask (v : Word64) : GlobalCtrl.unpack (v &&& gctrlMask) = GlobalCtrl.unpack v := by
  simp [GlobalCtrl.unpack, gctrlMask]

theorem GlobalStatus.clearBits_and_mask (g : GlobalStatus) (v : Word64) :
    g.clearBits (v &&& gstatMask) = g.clearBits v := by
  simp [GlobalStatus.clearBits, gstatMask]

theorem FixedCtrl.unpack_and_mask (v : Word64) : FixedCtrl.unpack (v &&& fctrlMask) = FixedCtrl.unpack v := by
  simp [FixedCtrl.unpack, fctrlMask]

theorem EvtSel.unpack_and_mask (v : Word64) : EvtSel.unpack (v &&& evtSelMask) = EvtSel.unpack v := by
  have hthr : (v &&& evtSelMask).extractLsb' 24 5 = v.extractLsb' 24 5 := extractLsb'_and_of_field (by decide)
  have humask : (v &&& evtSelMask).extractLsb' 8 8 = v.extractLsb' 8 8 := extractLsb'_and_of_field (by decide)
  have hevt : (v &&& evtSelMask).extractLsb' 0 8 = v.extractLsb' 0 8 := extractLsb'_and_of_field (by decide)
  rw [EvtSel.unpack, hthr, humask, hevt]
  simp [EvtSel.unpack, evtSelMask]

/-- A write takes its register's defined bits and no others. -/
theorem Pmu.writeMsr_and_mask (p : Pmu) (v : Word64) (m : Msr) : p.writeMsr (v &&& maskOf m) m = p.writeMsr v m := by
  cases m with
  | globalCtrl => simp only [Pmu.writeMsr, maskOf, GlobalCtrl.unpack_and_mask]
  | globalStatus => simp only [Pmu.writeMsr, maskOf, GlobalStatus.clearBits_and_mask]
  | fixedCtrl => simp only [Pmu.writeMsr, maskOf, FixedCtrl.unpack_and_mask]
  | fixedCtr =>
    have hfield : (v &&& ctr48Mask).setWidth 48 = v.setWidth 48 := setWidth_and_of_field (by decide)
    simp only [Pmu.writeMsr, maskOf, hfield]
  | cboConfig => rfl
  | perfCtr u j =>
    have hfield : (v &&& ctr44Mask).setWidth 44 = v.setWidth 44 := setWidth_and_of_field (by decide)
    simp only [Pmu.writeMsr, maskOf, hfield]
  | perfEvtSel u j => simp only [Pmu.writeMsr, maskOf, EvtSel.unpack_and_mask]

/-! ### Configuration reads (R105, R268) -/

theorem toInstr_cfgRd32_elsewhere {b d f : Byte} {o : Word32} (bar : Nat)
    (h : ¬(b = 0#8 ∧ d = 0#8 ∧ f = 0#8 ∧ (o = 0x48#32 ∨ o = 0x4C#32))) :
    (Access.cfgRd32 b d f o).toInstr bar = .error .notAPmuConfigRegister := by
  rw [Access.toInstr, if_neg fun ⟨hb, hd, hf, ho⟩ => h ⟨hb, hd, hf, .inl ho⟩,
    if_neg fun ⟨hb, hd, hf, ho⟩ => h ⟨hb, hd, hf, .inr ho⟩]

/-- A 32-bit read returns its value and changes nothing else. -/
theorem read32_returns (v : Word32) (s : State) : Returns v.toNat s (read32 v s) :=
  ⟨v.setWidth 64, BitVec.toNat_setWidth_of_le (by decide), rfl⟩

/-- CFG_RD32 at offset 0x48 returns bits 31:0 of the configuration value. -/
theorem exec_cfgRd32Lo_returns (s : State) : Returns (s.part.cfg48.toNat % 2 ^ 32) s (exec .cfgRd32Lo s) := by
  have hlow : (s.part.cfg48.extractLsb' 0 32).toNat = s.part.cfg48.toNat % 2 ^ 32 := by
    rw [BitVec.extractLsb'_toNat, Nat.shiftRight_zero]
  exact hlow ▸ read32_returns _ s

/-- CFG_RD32 at offset 0x4C returns bits 63:32 of the configuration value. -/
theorem exec_cfgRd32Hi_returns (s : State) : Returns (s.part.cfg48.toNat / 2 ^ 32) s (exec .cfgRd32Hi s) := by
  have hhigh : (s.part.cfg48.extractLsb' 32 32).toNat = s.part.cfg48.toNat / 2 ^ 32 := by
    have := s.part.cfg48.isLt
    rw [BitVec.extractLsb'_toNat, Nat.shiftRight_eq_div_pow]
    omega
  exact hhigh ▸ read32_returns _ s

/-! ### The statements -/

/-- Settles O2: the encoder writes what the instruction's row says, and the words of each kind of row are among those
that the decoder reads in the row's place. -/
theorem decodeOfEncode : Obligations.DecodeOfEncode := by
  intro p i hw hwindow
  cases hform : i.form with
  | access a =>
    rw [(encode_of_form_access _ hform).1]
    exact decode_record_eq_ok_iff.2 ⟨a, rfl, fits_of_form_access hform, toInstr_of_form_access _ hform⟩
  | mmio c =>
    obtain rfl := eq_rdInstr_of_form_mmio hform
    rw [(encode_imcRdInstr _ c).1]
    exact decode_record_eq_ok_iff.2
      ⟨_, rfl, fits_memRead_word c (hwindow ⟨c, rfl⟩), Access.toInstr_memRead_word _ c⟩
  | event u j code mode =>
    simp only [encode, hform]
    exact decode_slot_eq_ok_iff.2 ⟨_, rfl, decodeEvent_of_form hform (evtSelOf_code code mode) hw⟩
  | label =>
    obtain rfl := eq_clockSocket_of_form_label hform
    exact decode_fixed_eq_ok_iff.2 ⟨rfl, rfl⟩

/-- Settles O3: the words that the decoder reads in a place are the encodings of what it reads there. -/
theorem encodeOfDecode : Obligations.EncodeOfDecode := by
  intro p pl bs i h
  cases pl with
  | record =>
    obtain ⟨a, rfl, -, hi⟩ := decode_record_eq_ok_iff.1 h
    exact encode_of_toInstr hi
  | slot u j =>
    obtain ⟨x, rfl, hx⟩ := decode_slot_eq_ok_iff.1 h
    exact ⟨encode_of_decodeEvent _ hx, (form_of_decodeEvent hx).2⟩
  | fixed =>
    obtain ⟨rfl, rfl⟩ := decode_fixed_eq_ok_iff.1 h
    exact ⟨rfl, rfl⟩

/-- Settles O8: the decoder's table and the map list the same codes. -/
theorem eventCodesAreListed : Obligations.EventCodesAreListed := by
  intro u j x c a
  rcases decodeEvent_cases u j x c a with ⟨hnone, hunlisted⟩ | ⟨e, n, hevent, hlisted, -⟩
  · rw [hnone, hunlisted]
    rfl
  · rw [hevent, hlisted]
    rfl

/-- Settles O30: a write of a register is checked against its mask, and takes the defined bits only. -/
theorem reservedBitsOfAWrite : Obligations.ReservedBitsOfAWrite := by
  intro m s v hm hp hv
  rw [exec_wrInstr hm hp, exec_wrInstr hm hp, ← not_maskOf, BitVec.not_not, Pmu.writeMsr_and_mask]
  rw [← not_maskOf] at hv
  refine ⟨writeMsr_refuses_reserved _ hv, writeMsr_faults_on_reserved _ hv, fun hr => ?_⟩
  have hgiven := writeMsr_of_accepted (mask := maskOf m) (v := v) (s.pmu.writeMsr v m) (.inr hr)
  have hmasked := writeMsr_of_accepted (mask := maskOf m) (v := v &&& maskOf m) (s.pmu.writeMsr v m) (.inr hr)
  exact ⟨hgiven.trans hmasked.symm, _, hgiven⟩

/-- Settles O7: the decoder gives an instruction at the two locations only, and each returns its half. -/
theorem configurationReads : Obligations.ConfigurationReads := by
  intro s n rest b d f o hs
  rw [step_of_comes hs trivial]
  refine ⟨?low, ?high, fun helse => ?elsewhere⟩
  case low =>
    rintro ⟨rfl, rfl, rfl, rfl⟩
    exact exec_cfgRd32Lo_returns { s with schedule := rest, issuer := n }
  case high =>
    rintro ⟨rfl, rfl, rfl, rfl⟩
    exact exec_cfgRd32Hi_returns { s with schedule := rest, issuer := n }
  case elsewhere => rw [toInstr_cfgRd32_elsewhere _ helse]

/-- Settles O32: no index has a meaning (R103). -/
theorem rdpmcRefused : Obligations.RdpmcRefused := by
  intro s index
  rfl

end Sys2Proof.Machine

/-! The statements of 40_global_registers.md: the reads and the writes of the two global registers, what changes a
status bit, what changes a control register, and what stands still with GCTRL.EN = 0. -/

namespace Sys2Proof

/-! ### One-bit fields in a value (R108) -/

theorem getElem_bitAt (b : Bool) {n k : Nat} (hn : n < 64) (hk : k < 64) : (bitAt b n)[k] = (decide (k = n) && b) := by
  rcases Nat.lt_trichotomy k n with h | rfl | h
  · simp [bitAt, h, h.ne]
  · simp [bitAt]
  · simp [bitAt, h.ne', h.not_gt, BitVec.getLsbD_of_ge (BitVec.ofBool b) (k - n) (by omega)]

/-- A field that stands within a mask is not touched by it. -/
theorem bitAt_and_of_getLsbD (b : Bool) {n : Nat} {mask : Word64} (h : mask.getLsbD n = true) :
    bitAt b n &&& mask = bitAt b n := by
  have hn : n < 64 := BitVec.lt_of_getLsbD h
  ext k hk
  rw [BitVec.getElem_and, getElem_bitAt b hn hk]
  by_cases hkn : k = n
  · rw [← BitVec.getLsbD_eq_getElem, hkn, h, Bool.and_true]
  · rw [decide_eq_false hkn, Bool.false_and, Bool.false_and]

/-- A bit within the mask is that of the masked value. -/
theorem getLsbD_of_and_mask {v mask w : Word64} {k : Nat} (hv : v &&& mask = w) (hk : mask.getLsbD k = true) :
    v.getLsbD k = w.getLsbD k := by
  rw [← hv, BitVec.getLsbD_and, hk, Bool.and_true]

end Sys2Proof

namespace Sys2Proof.Machine

open Sys2Proof

/-! ### The formats of the global registers (R107 to R109) -/

theorem GlobalCtrl.pack_and_mask (x : GlobalCtrl) : x.pack &&& gctrlMask = x.pack := by
  have hbit (b : Bool) {n : Nat} (h : gctrlMask.getLsbD n = true) := bitAt_and_of_getLsbD b h
  simp only [GlobalCtrl.pack, BitVec.and_or_distrib_right, hbit _ (n := 31) rfl, hbit _ (n := 30) rfl,
    hbit _ (n := 29) rfl, hbit _ (n := 3) rfl, hbit _ (n := 2) rfl, hbit _ (n := 1) rfl, hbit _ (n := 0) rfl]

@[simp] theorem GlobalCtrl.unpack_pack (x : GlobalCtrl) : GlobalCtrl.unpack x.pack = x := by
  simp [GlobalCtrl.unpack, GlobalCtrl.pack, getElem_bitAt]

theorem GlobalStatus.pack_and_mask (x : GlobalStatus) : x.pack &&& gstatMask = x.pack := by
  have hbit (b : Bool) {n : Nat} (h : gstatMask.getLsbD n = true) := bitAt_and_of_getLsbD b h
  simp only [GlobalStatus.pack, BitVec.and_or_distrib_right, hbit _ (n := 3) rfl, hbit _ (n := 1) rfl,
    hbit _ (n := 0) rfl]

theorem GlobalStatus.getLsbD_pack (x : GlobalStatus) :
    x.pack.getLsbD 3 = x.cboxOvf ∧ x.pack.getLsbD 1 = x.arbOvf ∧ x.pack.getLsbD 0 = x.fixedOvf := by
  simp [GlobalStatus.pack, getElem_bitAt]

/-! ### A read and a write of one register (R118, R119) -/

/-- A read returns a value whose part within the mask is `w`, so whatever that part decides holds of the value; outside
the mask it is as RESERVED_READ says. -/
theorem readMsr_reads {fields : Word64 → Prop} {mask w : Word64} (s : State) (hw : w &&& mask = w)
    (hf : ∀ v, v &&& mask = w → fields v) : Reads fields (~~~mask) s (readMsr mask w s) := by
  refine ⟨w ||| s.reservedBits mask, hf _ ?_, fun hzero => ?_, rfl⟩
  · rw [BitVec.and_or_distrib_right, State.reservedBits_and_mask, BitVec.or_zero, hw]
  · have hnone : s.reservedBits mask = 0#64 := by rw [State.reservedBits, hzero]
    rw [hnone, BitVec.or_zero, ← hw, BitVec.and_assoc, BitVec.and_not_self]
    exact BitVec.and_zero

theorem exec_rdInstr_reads {fields : Word64 → Prop} {m : Msr} {s : State} (hp : presentOn s.part m = true)
    (hw : s.msrValue m &&& maskOf m = s.msrValue m) (hf : ∀ v, v &&& maskOf m = s.msrValue m → fields v) :
    Reads fields (reservedOf m) s (exec m.rdInstr s) := by
  rw [exec_rdInstr hp, ← not_maskOf]
  exact readMsr_reads s hw hf

theorem writeMsr_writes (mask v : Word64) (s : State) (p : Pmu) :
    Writes (~~~mask) v s (s.withPmu p) (writeMsr mask v s p) :=
  ⟨writeMsr_of_defined s p, fun hv =>
    ⟨writeMsr_refuses_reserved p hv, writeMsr_faults_on_reserved p hv, fun hr => writeMsr_of_accepted p (.inr hr)⟩⟩

theorem exec_wrInstr_writes {m : Msr} {s : State} (v : Word64) (hm : m ≠ .cboConfig) (hp : presentOn s.part m = true) :
    Writes (reservedOf m) v s (s.withPmu (s.pmu.writeMsr v m)) (exec (m.wrInstr v) s) := by
  rw [exec_wrInstr hm hp, ← not_maskOf]
  exact writeMsr_writes _ v s _

/-! ### What a write to the status register does to its bits (R137) -/

theorem GlobalStatus.clearBits_eq (g : GlobalStatus) (v : Word64) :
    g.clearBits v =
      { cboxOvf := if v.getLsbD 3 then false else g.cboxOvf
        arbOvf := if v.getLsbD 1 then false else g.arbOvf
        fixedOvf := if v.getLsbD 0 then false else g.fixedOvf } := by
  have hclear (old new : Bool) : (old && !new) = if new then false else old := by cases old <;> cases new <;> rfl
  simp only [GlobalStatus.clearBits, hclear]

/-! ### Overflows and the status register (R296) -/

theorem recordStatus_cases (gated ovfEn : Bool) (src : OvfSource) (g : GlobalStatus) :
    recordStatus gated ovfEn src g = g ∨
      (gated = false ∨ ovfEn = true) ∧ recordStatus gated ovfEn src g = g.setBit src := by
  unfold recordStatus
  split
  next h => exact .inr ⟨h, rfl⟩
  next => exact .inl rfl

/-- A tick of the fixed counter leaves the status register as it is, or overflows and records it. -/
theorem countFixed_gstat (s : State) :
    (countFixed s).pmu.gstat = s.pmu.gstat ∨
      s.pmu.gctrl.en = true ∧ s.pmu.fctrl.cntEn = true ∧ s.pmu.fctr.toNat = 2 ^ 48 - 1 ∧
        (s.part.ovfStatusGated = false ∨ s.pmu.fctrl.ovfEn = true) ∧
        (countFixed s).pmu.gstat = s.pmu.gstat.setBit .fixed := by
  rcases countFixed_cases s with ⟨-, e⟩ | ⟨-, -, e⟩ | ⟨hen, hcarry, e⟩
  · exact .inl (by rw [e])
  · exact .inl (by rw [e, State.withPmu_pmu])
  · rw [e, State.withPmu_pmu, overflow_gstat]
    refine (recordStatus_cases ..).imp_right fun ⟨hrecorded, hset⟩ => ?_
    obtain ⟨hglobal, hlocal⟩ := (Bool.and_eq_true _ _).mp hen
    have := s.pmu.fctr.isLt
    exact ⟨hglobal, hlocal, by omega, hrecorded, hset⟩

theorem GlobalStatus.eq_of_bits {g g' : GlobalStatus} (hcbox : g.cboxOvf = g'.cboxOvf) (harb : g.arbOvf = g'.arbOvf)
    (hfixed : g.fixedOvf = g'.fixedOvf) : g = g' := by
  cases g
  cases g'
  exact GlobalStatus.mk.injEq .. ▸ ⟨hcbox, harb, hfixed⟩

/-- A cycle of unit `u` sets the bit of its group where an overflow is recorded, and no other bit. -/
theorem StatusEffect.gstat_eq {u : UnitId} {recorded : Bool} {s t : State} (h : StatusEffect u recorded s t) :
    t.pmu.gstat = if recorded then s.pmu.gstat.setBit (.counter u) else s.pmu.gstat := by
  obtain ⟨hcbox, harb, hfixed⟩ := h
  cases recorded with
  | false => exact GlobalStatus.eq_of_bits (by simpa using hcbox) (by simpa using harb) hfixed
  | true =>
    cases u with
    | arb => exact GlobalStatus.eq_of_bits (hcbox.trans (Bool.or_false _)) (harb.trans (Bool.or_true _)) hfixed
    | cbo i => exact GlobalStatus.eq_of_bits (hcbox.trans (Bool.or_true _)) (harb.trans (Bool.or_false _)) hfixed

/-- A counter that carries out in a tick, with an increment it can receive and a wanted OVF_EN, is the overflow that
comes. -/
theorem State.overflowComes_of_tick {s : State} {u : UnitId} {c : CboCycle} {a : ArbCycle} {n0 n1 : Nat}
    {wanted : Bool → Bool} (ha : s.nextAction = tickOf u c a) (h0 : s.mayReceive u .k0 c a n0)
    (h1 : s.mayReceive u .k1 c a n1)
    (h : (s.overflowsIn u .k0 (s.pmu.slot u .k0).sel.mode n0 && wanted (s.pmu.slot u .k0).sel.mode.ovfEn
      || s.overflowsIn u .k1 (s.pmu.slot u .k1).sel.mode n1 && wanted (s.pmu.slot u .k1).sel.mode.ovfEn) = true) :
    s.overflowComes u wanted := by
  rw [Bool.or_eq_true, Bool.and_eq_true, Bool.and_eq_true] at h
  rcases h with ⟨hcarry, hwanted⟩ | ⟨hcarry, hwanted⟩
  · exact ⟨c, a, ha, .k0, n0, h0, hcarry, hwanted⟩
  · exact ⟨c, a, ha, .k1, n1, h1, hcarry, hwanted⟩

/-- The next step is a tick in which this source overflows, and OVF_STATUS_GATED and its OVF_EN let the overflow be
recorded (R296). -/
def State.recordComes (s : State) : OvfSource → Prop
  | .fixed => s.fixedOverflowComes ∧ (s.part.ovfStatusGated = false ∨ s.pmu.fctrl.ovfEn = true)
  | .counter u => s.overflowComes u fun ovfEn => !s.part.ovfStatusGated || ovfEn

/-- What a step can do to the status register: nothing, clear the bits of a value written to it, or set the bit of a
recorded overflow. -/
theorem step_gstat {s t : State} (h : step s = .next t) :
    t.pmu.gstat = s.pmu.gstat ∨
    (∃ v, s.issues (.wrmsrGlobalStatus v) ∧ t.pmu.gstat = s.pmu.gstat.clearBits v) ∨
    ∃ src, s.recordComes src ∧ t.pmu.gstat = s.pmu.gstat.setBit src := by
  cases step_cases h with
  | read n v he hc hp => exact .inl (by rw [hp])
  | write m v hi hm hpr hp =>
    by_cases hs : m = .globalStatus
    · subst hs
      exact .inr (.inl ⟨v, hi, by rw [hp, Pmu.writeMsr]⟩)
    · exact .inl (by rw [hp, Pmu.writeMsr_gstat _ v hs])
  | fixed ha hp =>
    rw [hp]
    rcases countFixed_gstat s with hsame | ⟨hen, hcnt, hmax, hrecorded, hset⟩
    · exact .inl hsame
    · exact .inr (.inr ⟨.fixed, ⟨⟨ha, hen, hcnt, hmax⟩, hrecorded⟩, hset⟩)
  | unit u c a n0 n1 ha hu h0 h1 he =>
    obtain ⟨-, -, hstatus, -⟩ := he
    have hgstat := hstatus.gstat_eq
    split at hgstat
    next hrecorded => exact .inr (.inr ⟨.counter u, State.overflowComes_of_tick ha h0 h1 hrecorded, hgstat⟩)
    next => exact .inl hgstat
  | imc c ha hp => exact .inl (by rw [hp]; rfl)
  | pmi ha hpend hp => exact .inl (by rw [hp, deliverPmi_pmu_gstat])
  | sleep n b ha hc hp => exact .inl (by rw [hp])

/-! ### The control registers -/

/-- A register that a write changed is the one that was written: `x` and `y` are what it holds before and after. -/
theorem State.issues_of_write_changed {α : Type} {x y : α} {s : State} {m r : Msr} {v : Word64}
    (hi : s.issues (m.wrInstr v)) (hframe : m ≠ r → y = x) (hchanged : y ≠ x) : ∃ w, s.issues (r.wrInstr w) := by
  have hm : m = r := by_contra fun hne => hchanged (hframe hne)
  exact ⟨v, hm ▸ hi⟩

/-- In a tick each counter of the unit has the effect of a cycle with some increment. -/
theorem TickEffect.counterEffect {u : UnitId} {n0 n1 : Nat} {s t : State} (h : TickEffect u n0 n1 s t) (j : CtrIdx) :
    ∃ n, CounterEffect u j (s.pmu.slot u j).sel.mode n s t := by
  obtain ⟨h0, h1, -⟩ := h
  cases j with
  | k0 => exact ⟨n0, h0⟩
  | k1 => exact ⟨n1, h1⟩

theorem TickEffect.sel_eq {u : UnitId} {n0 n1 : Nat} {s t : State} (h : TickEffect u n0 n1 s t) (w : UnitId)
    (j : CtrIdx) : (t.pmu.slot w j).sel = (s.pmu.slot w j).sel := by
  by_cases hw : w = u
  · obtain ⟨n, hsel, -⟩ := h.counterEffect j
    exact hw ▸ hsel
  · obtain ⟨-, -, -, -, hother, -⟩ := h
    rw [hother w j hw]

@[simp] theorem countFixed_gctrl (s : State) : (countFixed s).pmu.gctrl = s.pmu.gctrl := by
  rcases countFixed_cases s with ⟨-, e⟩ | ⟨-, -, e⟩ | ⟨-, -, e⟩ <;> simp [e]

@[simp] theorem countFixed_fctrl (s : State) : (countFixed s).pmu.fctrl = s.pmu.fctrl := by
  rcases countFixed_cases s with ⟨-, e⟩ | ⟨-, -, e⟩ | ⟨-, -, e⟩ <;> simp [e]

/-- A step that is neither a write nor a delivery leaves the control registers as they are. -/
theorem step_controls {s t : State} (h : step s = .next t) :
    (∃ m v, s.issues (m.wrInstr v) ∧ t.pmu = s.pmu.writeMsr v m) ∨
    (s.nextAction = .pmi ∧ s.pmu.pmiPending = true ∧ t.pmu = (deliverPmi s).pmu) ∨
    (t.pmu.gctrl = s.pmu.gctrl ∧ t.pmu.fctrl = s.pmu.fctrl ∧
      ∀ u j, (t.pmu.slot u j).sel = (s.pmu.slot u j).sel) := by
  cases step_cases h with
  | read n v he hc hp => simp [hp]
  | write m v hi hm hpr hp => exact .inl ⟨m, v, hi, hp⟩
  | fixed ha hp => simp [hp]
  | unit u c a n0 n1 ha hu h0 h1 he =>
    have hsel := he.sel_eq
    obtain ⟨-, -, -, -, -, hgctrl, hfctrl, -⟩ := he
    exact .inr (.inr ⟨hgctrl, hfctrl, hsel⟩)
  | imc c ha hp => exact .inr (.inr (by simp [hp, countImc]))
  | pmi ha hpend hp => exact .inr (.inl ⟨ha, hpend, hp⟩)
  | sleep n b ha hc hp => exact .inr (.inr (by simp [hp]))

/-- A delivery that changes the control register is a freeze: it clears EN and nothing else (R302). -/
theorem deliverPmi_gctrl_of_changed {s : State} (h : (deliverPmi s).pmu.gctrl ≠ s.pmu.gctrl) :
    s.pmu.gctrl.frzOnPmi = true ∧ (deliverPmi s).pmu.gctrl = { s.pmu.gctrl with en := false } := by
  rw [deliverPmi_pmu_gctrl] at h ⊢
  cases hfrz : s.pmu.gctrl.frzOnPmi with
  | false =>
    have hkept : (s.pmu.gctrl.en && !s.pmu.gctrl.frzOnPmi) = s.pmu.gctrl.en := by simp [hfrz]
    rw [hkept] at h
    exact absurd rfl h
  | true => simp

/-! ### With GCTRL.EN = 0 (R132, R194) -/

theorem State.overflowsIn_of_disabled {s : State} (hen : s.pmu.gctrl.en = false) (u : UnitId) (j : CtrIdx)
    (mode : CountMode) (n : Nat) : s.overflowsIn u j mode n = false := by
  simp [State.overflowsIn, State.countsIn, hen]

theorem countFixed_of_disabled {s : State} (hen : s.pmu.gctrl.en = false) : countFixed s = s := by
  simp [countFixed, hen]

/-- A disabled tick leaves every counter as it is. -/
theorem TickEffect.ctr_of_disabled {u : UnitId} {n0 n1 : Nat} {s t : State} (h : TickEffect u n0 n1 s t)
    (hen : s.pmu.gctrl.en = false) (w : UnitId) (j : CtrIdx) : (t.pmu.slot w j).ctr = (s.pmu.slot w j).ctr := by
  by_cases hw : w = u
  · obtain ⟨n, -, -, hidle⟩ := h.counterEffect j
    have hcounts : s.countsIn (s.pmu.slot u j).sel.mode = false := by rw [State.countsIn, hen, Bool.false_and]
    exact hw ▸ hidle hcounts
  · obtain ⟨-, -, -, -, hother, -⟩ := h
    rw [hother w j hw]

/-- A disabled tick records no overflow and requests no PMI. -/
theorem TickEffect.flags_of_disabled {u : UnitId} {n0 n1 : Nat} {s t : State} (h : TickEffect u n0 n1 s t)
    (hen : s.pmu.gctrl.en = false) : t.pmu.gstat = s.pmu.gstat ∧ t.pmu.pmiPending = s.pmu.pmiPending := by
  obtain ⟨-, -, hstatus, hpending, -⟩ := h
  simp only [State.recordsIn, State.requestsIn, State.overflowsIn_of_disabled hen, Bool.false_and, Bool.or_false]
    at hstatus hpending
  exact ⟨hstatus.gstat_eq, hpending⟩

/-- What the enable gates: the counters of the fixed unit, the ARB and the CBos, the status bits and the PMI request. -/
def SameGated (p q : Pmu) : Prop :=
  q.fctr = p.fctr ∧ (∀ u j, (q.slot u j).ctr = (p.slot u j).ctr) ∧ q.gstat = p.gstat ∧ q.pmiPending = p.pmiPending

/-- While disabled, a step that is neither a write nor a delivery leaves everything the enable gates as it is. -/
theorem step_of_disabled {s t : State} (hen : s.pmu.gctrl.en = false) (h : step s = .next t) :
    (∃ m v, s.issues (m.wrInstr v) ∧ t.pmu = s.pmu.writeMsr v m) ∨
    (s.nextAction = .pmi ∧ t.pmu = (deliverPmi s).pmu) ∨ SameGated s.pmu t.pmu := by
  cases step_cases h with
  | read n v he hc hp => exact .inr (.inr (by simp [SameGated, hp]))
  | write m v hi hm hpr hp => exact .inl ⟨m, v, hi, hp⟩
  | fixed ha hp => exact .inr (.inr (by simp [SameGated, hp, countFixed_of_disabled hen]))
  | unit u c a n0 n1 ha hu h0 h1 he =>
    obtain ⟨hgstat, hpending⟩ := he.flags_of_disabled hen
    have hctr := he.ctr_of_disabled hen
    obtain ⟨-, -, -, -, -, -, -, hfctr, -⟩ := he
    exact .inr (.inr ⟨hfctr, hctr, hgstat, hpending⟩)
  | imc c ha hp => exact .inr (.inr (by simp [SameGated, hp, countImc]))
  | pmi ha hpend hp => exact .inr (.inl ⟨ha, hp⟩)
  | sleep n b ha hc hp => exact .inr (.inr (by simp [SameGated, hp]))

/-! ### The statements -/

/-- Settles O56: of the things a step can do to the status register, a write alone clears a bit, and the bit that an
overflow sets is that of its group. -/
theorem statusBitsChangeOnlyByRule : Obligations.StatusBitsChangeOnlyByRule := by
  intro s t h
  rcases step_gstat h with hg | ⟨v, hi, hg⟩ | ⟨src, hcomes, hg⟩ <;> rw [hg]
  case inl => simp +contextual
  case inr.inl =>
    refine ⟨fun hold hnew => ⟨v, hi, ?_⟩, fun hold hnew => ⟨v, hi, ?_⟩, fun hold hnew => ⟨v, hi, ?_⟩, ?_⟩
    · simpa [GlobalStatus.clearBits, hold] using hnew
    · simpa [GlobalStatus.clearBits, hold] using hnew
    · simpa [GlobalStatus.clearBits, hold] using hnew
    · simp +contextual [GlobalStatus.clearBits]
  case inr.inr =>
    rcases src with _ | _ | i
    case fixed =>
      obtain ⟨hoverflow, hrecorded⟩ := hcomes
      simp +contextual [GlobalStatus.setBit, hoverflow, hrecorded]
    case counter.arb =>
      refine ⟨?_, ?_, ?_, ?_, fun _ _ => hcomes, ?_⟩ <;> simp +contextual [GlobalStatus.setBit]
    case counter.cbo =>
      refine ⟨?_, ?_, ?_, fun _ _ => ⟨i, hcomes⟩, ?_, ?_⟩ <;> simp +contextual [GlobalStatus.setBit]

/-- Settles O58: a write changes its own register only, and a delivery changes EN only. -/
theorem controlRegistersChangeOnlyByWriteOrFreeze : Obligations.ControlRegistersChangeOnlyByWriteOrFreeze := by
  intro s t h
  rcases step_controls h with ⟨m, v, hi, hp⟩ | ⟨ha, hpend, hp⟩ | ⟨hgctrl, hfctrl, hsel⟩
  · rw [hp]
    exact ⟨fun hne => .inl (State.issues_of_write_changed hi (Pmu.writeMsr_gctrl _ v) hne),
      State.issues_of_write_changed hi (Pmu.writeMsr_fctrl _ v),
      fun u j => State.issues_of_write_changed hi (Pmu.writeMsr_sel _ v)⟩
  · rw [hp]
    refine ⟨fun hne => .inr ⟨ha, hpend, deliverPmi_gctrl_of_changed hne⟩, fun hne => absurd ?_ hne,
      fun u j hne => absurd ?_ hne⟩
    · exact deliverPmi_pmu_fctrl s
    · rw [deliverPmi_slot]
  · exact ⟨absurd hgctrl, absurd hfctrl, fun u j => absurd (hsel u j)⟩

/-- Settles O59: while disabled, what the enable gates changes by a write to it or by the delivery, which withdraws the
request and nothing else of it. -/
theorem nothingCountsWhileDisabled : Obligations.NothingCountsWhileDisabled := by
  intro s t hen h
  rcases step_of_disabled hen h with ⟨m, v, hi, hp⟩ | ⟨ha, hp⟩ | ⟨hfctr, hctr, hgstat, hpending⟩
  · rw [hp]
    exact ⟨State.issues_of_write_changed hi (Pmu.writeMsr_fctr _ v),
      fun u j => State.issues_of_write_changed hi (Pmu.writeMsr_ctr _ v),
      State.issues_of_write_changed hi (Pmu.writeMsr_gstat _ v), absurd (Pmu.writeMsr_pmiPending ..)⟩
  · rw [hp]
    refine ⟨absurd (deliverPmi_pmu_fctr s), fun u j hne => absurd ?_ hne, absurd (deliverPmi_pmu_gstat s), fun _ => ha⟩
    rw [deliverPmi_slot]
  · exact ⟨absurd hfctr, fun u j => absurd (hctr u j), absurd hgstat, absurd hpending⟩

/-- Settles O12: a value that agrees with the packed fields within the mask has those fields. -/
theorem globalCtrlRead : Obligations.GlobalCtrlRead := by
  intro s
  refine exec_rdInstr_reads (m := .globalCtrl) rfl (GlobalCtrl.pack_and_mask _) fun v hv => ?_
  have hfields : GlobalCtrl.unpack v = s.pmu.gctrl := by
    rw [← GlobalCtrl.unpack_and_mask]
    exact (congrArg GlobalCtrl.unpack hv).trans (GlobalCtrl.unpack_pack _)
  rw [← hfields]
  exact ⟨rfl, rfl, rfl, rfl, rfl, rfl, rfl⟩

/-- Settles O13: the register is replaced by the fields of the value. -/
theorem globalCtrlWrite : Obligations.GlobalCtrlWrite := by
  intro s v
  exact exec_wrInstr_writes (m := .globalCtrl) v nofun rfl

/-- Settles O14: a value that agrees with the packed bits within the mask has those bits. -/
theorem globalStatusRead : Obligations.GlobalStatusRead := by
  intro s
  refine exec_rdInstr_reads (m := .globalStatus) rfl (GlobalStatus.pack_and_mask _) fun v hv => ?_
  obtain ⟨hcbox, harb, hfixed⟩ := s.pmu.gstat.getLsbD_pack
  exact ⟨(getLsbD_of_and_mask hv rfl).trans hcbox, (getLsbD_of_and_mask hv rfl).trans harb,
    (getLsbD_of_and_mask hv rfl).trans hfixed⟩

/-- Settles O15: each bit keeps its value or is cleared, as the bit of the value says. -/
theorem globalStatusWriteOneToClear : Obligations.GlobalStatusWriteOneToClear := by
  intro s v
  rw [← GlobalStatus.clearBits_eq]
  exact exec_wrInstr_writes (m := .globalStatus) v nofun rfl

end Sys2Proof.Machine

/-! The statements of 41_fixed_counter.md: the reads and the writes of the fixed counter's two registers, one cycle of
the counter, and its period. -/

namespace Sys2Proof.Machine

open Sys2Proof

/-! ### A counter in the low bits of a value (R107) -/

section
variable {n : Nat} {mask : Word64} (hmask : mask.setWidth n = BitVec.allOnes n)
include hmask

theorem setWidth_and_of_mask (x : BitVec n) : x.setWidth 64 &&& mask = x.setWidth 64 := by
  ext k hk
  rw [BitVec.getElem_and, BitVec.getElem_setWidth]
  by_cases hkn : k < n
  · have hbit : mask[k] = true := by simpa [hkn, hk] using congrArg (·.getLsbD k) hmask
    rw [hbit, Bool.and_true]
  · rw [BitVec.getLsbD_of_ge x k (by omega), Bool.false_and]

/-- A value that agrees with a counter within the mask has the counter in its low bits. -/
theorem extractLsb'_of_and_mask {x : BitVec n} {v : Word64} (hn : n ≤ 64) (hv : v &&& mask = x.setWidth 64) :
    v.extractLsb' 0 n = x := by
  rw [← BitVec.setWidth_eq_extractLsb' hn, ← setWidth_and_of_field hmask, hv, BitVec.setWidth_setWidth_of_le x hn,
    BitVec.setWidth_eq]

end

/-! ### The format of the control register (R107 to R109) -/

theorem FixedCtrl.pack_and_mask (x : FixedCtrl) : x.pack &&& fctrlMask = x.pack := by
  have hbit (b : Bool) {n : Nat} (h : fctrlMask.getLsbD n = true) := bitAt_and_of_getLsbD b h
  simp only [FixedCtrl.pack, BitVec.and_or_distrib_right, hbit _ (n := 22) rfl, hbit _ (n := 20) rfl]

theorem FixedCtrl.getLsbD_pack (x : FixedCtrl) : x.pack.getLsbD 22 = x.cntEn ∧ x.pack.getLsbD 20 = x.ovfEn := by
  simp [FixedCtrl.pack, getElem_bitAt]

/-! ### One cycle of the counter (R158) -/

/-- The overflow of the fixed counter sets its status bit, where it is recorded (R296). -/
theorem recordStatus_fixed (gated ovfEn : Bool) (g : GlobalStatus) :
    recordStatus gated ovfEn .fixed g = { g with fixedOvf := g.fixedOvf || (!gated || ovfEn) } := by
  cases gated <;> cases ovfEn <;> simp [recordStatus, GlobalStatus.setBit]

/-- The next state of a counting cycle, with or without a carry out. -/
theorem countFixed_of_enabled {s : State} (hen : s.pmu.gctrl.en = true) (hcnt : s.pmu.fctrl.cntEn = true) :
    countFixed s = s.withPmu { s.pmu with
      fctr := BitVec.ofNat 48 (s.pmu.fctr.toNat + 1)
      gstat := { s.pmu.gstat with
        fixedOvf := s.pmu.gstat.fixedOvf ||
          (s.pmu.fctr.toNat + 1 == 2 ^ 48 && (!s.part.ovfStatusGated || s.pmu.fctrl.ovfEn)) }
      pmiPending := s.pmu.pmiPending || (s.pmu.fctr.toNat + 1 == 2 ^ 48 && s.pmu.fctrl.ovfEn) } := by
  rcases countFixed_cases s with ⟨hoff, -⟩ | ⟨-, hsum, e⟩ | ⟨-, hsum, e⟩
  · simp [hen, hcnt] at hoff
  · have hno : (s.pmu.fctr.toNat + 1 == 2 ^ 48) = false := beq_false_of_ne hsum.ne
    rw [e, hno, Bool.false_and, Bool.false_and, Bool.or_false, Bool.or_false]
  · have hcarry : (s.pmu.fctr.toNat + 1 == 2 ^ 48) = true := by
      have := s.pmu.fctr.isLt
      exact beq_of_eq (by omega)
    rw [e, overflow, recordStatus_fixed, hcarry, Bool.true_and, Bool.true_and]

theorem countFixed_fctr {s : State} (hen : s.pmu.gctrl.en = true) (hcnt : s.pmu.fctrl.cntEn = true) :
    (countFixed s).pmu.fctr.toNat = (s.pmu.fctr.toNat + 1) % 2 ^ 48 := by
  rw [countFixed_of_enabled hen hcnt, State.withPmu_pmu, BitVec.toNat_ofNat]

theorem countFixed_of_idle {s : State} (h : s.pmu.gctrl.en = false ∨ s.pmu.fctrl.cntEn = false) :
    countFixed s = s := by
  rw [countFixed, if_neg]
  rcases h with h | h <;> simp [h]

/-! ### A run of ticks (R161) -/

/-- The fixed counter counts, and an overflow of it would be recorded (R158, R296). -/
def State.recordsFixed (s : State) : Prop :=
  s.pmu.gctrl.en = true ∧ s.pmu.fctrl.cntEn = true ∧ (s.part.ovfStatusGated = false ∨ s.pmu.fctrl.ovfEn = true)

theorem recordsFixed_countFixed {s : State} (h : s.recordsFixed) : (countFixed s).recordsFixed := by
  rw [State.recordsFixed, countFixed_gctrl, countFixed_fctrl, countFixed_part]
  exact h

theorem countFixed_fixedOvf {s : State} (h : s.recordsFixed) :
    (countFixed s).pmu.gstat.fixedOvf = (s.pmu.gstat.fixedOvf || decide (s.pmu.fctr.toNat + 1 = 2 ^ 48)) := by
  obtain ⟨hen, hcnt, hrecorded⟩ := h
  have hrec : (!s.part.ovfStatusGated || s.pmu.fctrl.ovfEn) = true := by simpa using hrecorded
  rw [countFixed_of_enabled hen hcnt, State.withPmu_pmu, hrec, Bool.and_true, Bool.beq_eq_decide_eq]

theorem step_tickFixed {s : State} {rest : List Action} (h : s.schedule = .tickFixed :: rest) :
    step s = .next (countFixed { s with schedule := rest }) := step_of_schedule h

/-- However many ticks there are, the count advances by one each modulo 2^48, and the status bit is set once the sum
has reached 2^48. -/
theorem runSteps_tickFixed {k : Nat} {s : State} {rest : List Action}
    (hs : s.schedule = List.replicate k .tickFixed ++ rest) (h : s.recordsFixed) :
    ∃ t, runSteps k s = .next t ∧ t.pmu.fctr.toNat = (s.pmu.fctr.toNat + k) % 2 ^ 48 ∧
      t.pmu.gstat.fixedOvf = (s.pmu.gstat.fixedOvf || decide (2 ^ 48 ≤ s.pmu.fctr.toNat + k)) := by
  have hlt := s.pmu.fctr.isLt
  induction k generalizing s with
  | zero => exact ⟨s, rfl, (Nat.mod_eq_of_lt hlt).symm, by rw [decide_eq_false (by omega), Bool.or_false]⟩
  | succ k ih =>
    have ⟨hen, hcnt, _⟩ := h
    obtain ⟨m, hm⟩ : ∃ m, m = countFixed { s with schedule := List.replicate k .tickFixed ++ rest } := ⟨_, rfl⟩
    have hstep : step s = .next m := hm ▸ step_tickFixed hs
    have hkept : m.recordsFixed := hm ▸ recordsFixed_countFixed h
    have hfctr : m.pmu.fctr.toNat = (s.pmu.fctr.toNat + 1) % 2 ^ 48 := hm ▸ countFixed_fctr hen hcnt
    have hovf : m.pmu.gstat.fixedOvf = (s.pmu.gstat.fixedOvf || decide (s.pmu.fctr.toNat + 1 = 2 ^ 48)) :=
      hm ▸ countFixed_fixedOvf h
    obtain ⟨t, hrun, hcount, hstatus⟩ := ih (step_schedule hs hstep) hkept m.pmu.fctr.isLt
    refine ⟨t, runSteps_succ.2 ⟨m, hstep, hrun⟩, by omega, ?_⟩
    rw [hstatus, hovf, Bool.or_assoc, hfctr, ← Bool.decide_or]
    congr 1
    exact decide_eq_decide.2 (by omega)

/-! ### The statements -/

/-- Settles O38: the cycle is that of the counter, which counts under both enables and is idle otherwise. -/
theorem fixedCounterCycle : Obligations.FixedCounterCycle := by
  intro s
  exact ⟨fun hidle => congrArg Host.Outcome.next (countFixed_of_idle hidle), fun hen hcnt =>
    ⟨_, BitVec.toNat_ofNat .., congrArg Host.Outcome.next (countFixed_of_enabled hen hcnt)⟩⟩

/-- Settles O39: up to 2^48 the sum reaches 2^48 at the last tick or not at all, and it needs a tick to do so. -/
theorem fixedCounterPeriod : Obligations.FixedCounterPeriod := by
  intro s k rest hs hen hcnt hclear hrecorded hle
  obtain ⟨t, hrun, hcount, hstatus⟩ := runSteps_tickFixed hs ⟨hen, hcnt, hrecorded⟩
  refine ⟨t, hrun, hcount, ?_⟩
  have := s.pmu.fctr.isLt
  rw [hstatus, hclear, Bool.false_or, ← Bool.decide_and]
  exact decide_eq_decide.2 (by omega)

/-- Settles O16: a value that agrees with the packed fields within the mask has those fields. -/
theorem fixedCtrlRead : Obligations.FixedCtrlRead := by
  intro s
  refine exec_rdInstr_reads (m := .fixedCtrl) rfl (FixedCtrl.pack_and_mask _) fun v hv => ?_
  obtain ⟨hcnt, hovf⟩ := s.pmu.fctrl.getLsbD_pack
  exact ⟨(getLsbD_of_and_mask hv rfl).trans hcnt, (getLsbD_of_and_mask hv rfl).trans hovf⟩

/-- Settles O17: the register is replaced by the fields of the value. -/
theorem fixedCtrlWrite : Obligations.FixedCtrlWrite := by
  intro s v
  exact exec_wrInstr_writes (m := .fixedCtrl) v nofun rfl

/-- Settles O18: a value that agrees with the count within the mask has it in its low 48 bits. -/
theorem fixedCtrRead : Obligations.FixedCtrRead := by
  intro s
  have hmask : ctr48Mask.setWidth 48 = BitVec.allOnes 48 := by decide
  exact exec_rdInstr_reads (m := .fixedCtr) rfl (setWidth_and_of_mask hmask _) fun v hv =>
    extractLsb'_of_and_mask hmask (by decide) hv

/-- Settles O19: the count is replaced by the low 48 bits of the value, and no status bit or request comes with it. -/
theorem fixedCtrWrite : Obligations.FixedCtrWrite := by
  intro s v
  rw [← BitVec.setWidth_eq_extractLsb' (by decide)]
  exact exec_wrInstr_writes (m := .fixedCtr) v nofun rfl

end Sys2Proof.Machine

/-! The statements of 42_cbo_arb_counters.md: the reads and the writes of the CBos' and the ARB's registers, a tick of a
unit, and the table of THR, INV and E. -/

namespace Sys2Proof.Machine

open Sys2Proof

/-! ### The format of an event-select register (R107 to R109) -/

theorem EvtSel.pack_and_mask (x : EvtSel) : x.pack &&& evtSelMask = x.pack := by
  have hdefined : (x.pack &&& evtSelMask) &&& ~~~evtSelMask = 0#64 := by
    rw [BitVec.and_assoc, BitVec.and_not_self]
    exact BitVec.and_zero
  rw [← EvtSel.pack_unpack hdefined, EvtSel.unpack_and_mask, EvtSel.unpack_pack]

/-- A value that agrees with packed fields within the mask has those fields. -/
theorem EvtSel.unpack_of_and_mask {x : EvtSel} {v : Word64} (hv : v &&& evtSelMask = x.pack) : EvtSel.unpack v = x := by
  rw [← EvtSel.unpack_and_mask, hv, EvtSel.unpack_pack]

/-! ### The number of CBos (R170) -/

/-- N_CBO + 1 is at most 5, so it fits the four bits of NO_CBO_BANKS. -/
theorem Part.toNat_noCboBanks (p : Part) : p.noCboBanks.toNat = p.nCbo.toNat + 1 := by
  rw [Part.noCboBanks]
  cases p.nCbo <;> rfl

theorem Part.hasUnit_cbo_eq_true_iff (p : Part) (i : CboIdx) :
    p.hasUnit (.cbo i) = true ↔ i.toNat < p.nCbo.toNat := by
  simp [Part.hasUnit]

/-! ### The registers of a present unit (R174 to R183) -/

theorem selFields_unpack (v : Word64) : SelFields (EvtSel.unpack v) v := ⟨rfl, rfl, rfl, rfl, rfl, rfl, rfl⟩

section
variable {u : UnitId} {s : State} (hu : s.part.hasUnit u = true) (j : CtrIdx)
include hu

theorem exec_rdInstr_perfEvtSel_reads :
    Reads (SelFields (s.pmu.slot u j).sel) (reservedOf (.perfEvtSel u j)) s (exec (Msr.perfEvtSel u j).rdInstr s) :=
  exec_rdInstr_reads (m := .perfEvtSel u j) hu (EvtSel.pack_and_mask _) fun v hv =>
    EvtSel.unpack_of_and_mask hv ▸ selFields_unpack v

theorem exec_wrInstr_perfEvtSel_writes (v : Word64) :
    ∃ x, SelFields x v ∧
      Writes (reservedOf (.perfEvtSel u j)) v s (s.withPmu (s.pmu.putSlot u j { s.pmu.slot u j with sel := x }))
        (exec ((Msr.perfEvtSel u j).wrInstr v) s) :=
  ⟨EvtSel.unpack v, selFields_unpack v, exec_wrInstr_writes (m := .perfEvtSel u j) v nofun hu⟩

theorem exec_rdInstr_perfCtr_reads :
    Reads (fun v => v.extractLsb' 0 44 = (s.pmu.slot u j).ctr) (reservedOf (.perfCtr u j)) s
      (exec (Msr.perfCtr u j).rdInstr s) := by
  have hmask : ctr44Mask.setWidth 44 = BitVec.allOnes 44 := by decide
  exact exec_rdInstr_reads (m := .perfCtr u j) hu (setWidth_and_of_mask hmask _) fun v hv =>
    extractLsb'_of_and_mask hmask (by decide) hv

theorem exec_wrInstr_perfCtr_writes (v : Word64) :
    Writes (reservedOf (.perfCtr u j)) v s
      (s.withPmu (s.pmu.putSlot u j { s.pmu.slot u j with ctr := v.extractLsb' 0 44 }))
      (exec ((Msr.perfCtr u j).wrInstr v) s) := by
  rw [← BitVec.setWidth_eq_extractLsb' (by decide)]
  exact exec_wrInstr_writes (m := .perfCtr u j) v nofun hu

end

/-! ### The rows of the ARB (R106) -/

theorem mem_arbSelRows {r : CtrIdx × Word32 × Instr × (Word64 → Instr)} :
    r ∈ arbSelRows ↔ ∃ j, (j, rowOf (.perfEvtSel .arb j)) = r := by
  have hrows : arbSelRows = CtrIdx.all.map fun j => (j, rowOf (.perfEvtSel .arb j)) := rfl
  simp [hrows]

theorem mem_arbCtrRows {r : CtrIdx × Word32 × Instr × (Word64 → Instr)} :
    r ∈ arbCtrRows ↔ ∃ j, (j, rowOf (.perfCtr .arb j)) = r := by
  have hrows : arbCtrRows = CtrIdx.all.map fun j => (j, rowOf (.perfCtr .arb j)) := rfl
  simp [hrows]

/-! ### A tick of a unit (R190) -/

theorem tickCounter_of_event {u : UnitId} {j : CtrIdx} {e : Instr} {s : State}
    (he : decodeEvent u j (s.pmu.slot u j).sel = some e) : tickCounter u j s = exec e s := by
  simp only [tickCounter, he]

/-- The part of a tick that belongs to one counter leaves the unit's other counter and the part as they are. -/
theorem tickCounter_frame {u : UnitId} {j : CtrIdx} {s t : State} (h : tickCounter u j s = .next t) :
    (∀ k, k ≠ j → t.pmu.slot u k = s.pmu.slot u k) ∧ t.part = s.part := by
  obtain ⟨-, n, -, -, -, -, hother, ⟨-, -, -, -, -, -, hpart, -⟩, -⟩ :=
    tickCounter_effect h s.cboCycle s.arbCycle (fun _ => rfl) (fun _ => rfl)
  exact ⟨hother, hpart⟩

/-- Counter 1 sees its cycle in the state that counter 0's cycle gives. -/
theorem tickUnit_of_next {u : UnitId} {s m : State} (h : tickCounter u .k0 s = .next m) :
    tickUnit u s = tickCounter u .k1 m := by
  simp only [tickUnit, h]

/-- The event that counter 1 selects stands there still after counter 0's cycle. -/
theorem tickUnit_of_events {u : UnitId} {e0 e1 : Instr} {s m : State}
    (h0 : decodeEvent u .k0 (s.pmu.slot u .k0).sel = some e0) (h1 : decodeEvent u .k1 (s.pmu.slot u .k1).sel = some e1)
    (hm : exec e0 s = .next m) : tickUnit u s = exec e1 m := by
  have hfirst : tickCounter u .k0 s = .next m := (tickCounter_of_event h0).trans hm
  have hkept : m.pmu.slot u .k1 = s.pmu.slot u .k1 := (tickCounter_frame hfirst).1 .k1 (by decide)
  rw [← hkept] at h1
  rw [tickUnit_of_next hfirst, tickCounter_of_event h1]

/-- A tick of a present unit completes, whatever its registers select. -/
theorem tickUnit_completes {u : UnitId} {s : State} (hu : s.part.hasUnit u = true) : ∃ t, tickUnit u s = .next t := by
  obtain ⟨-, m, hm, -⟩ := tickCounter_completes .k0 s.cboCycle s.arbCycle hu (fun _ => rfl) (fun _ => rfl)
  have hum : m.part.hasUnit u = true := by rw [(tickCounter_frame hm).2, hu]
  obtain ⟨-, t, ht, -⟩ := tickCounter_completes .k1 m.cboCycle m.arbCycle hum (fun _ => rfl) (fun _ => rfl)
  exact ⟨t, (tickUnit_of_next hm).trans ht⟩

theorem step_tickArb {s : State} {a : ArbCycle} {rest : List Action} (hs : s.schedule = .tickArb a :: rest)
    (ha : s.part.admitsArb a = true) : step s = tickUnit .arb { s with schedule := rest, arbCycle := a } := by
  simp [step_of_schedule hs, runAction, ha]

theorem step_tickCbo {s : State} {i : CboIdx} {c : CboCycle} {rest : List Action}
    (hs : s.schedule = .tickCbo i c :: rest) (hu : s.part.hasUnit (.cbo i) = true) (hc : s.part.admitsCbo c = true) :
    step s = tickUnit (.cbo i) { s with schedule := rest, cboCycle := c } := by
  simp [step_of_schedule hs, runAction, hu, hc]

/-- A step that ticks a present unit with a record within MAX_INC completes, with an increment that each counter can
receive from that record. -/
theorem step_tickOf {u : UnitId} {s : State} {c : CboCycle} {a : ArbCycle} {rest : List Action}
    (hs : s.schedule = tickOf u c a :: rest) (hu : s.part.hasUnit u = true) (hc : s.part.admitsCbo c = true)
    (ha : s.part.admitsArb a = true) :
    ∃ n0 n1 t, step s = .next t ∧ s.mayReceive u .k0 c a n0 ∧ s.mayReceive u .k1 c a n1 ∧ TickEffect u n0 n1 s t := by
  cases u with
  | arb =>
    obtain ⟨t, ht⟩ := tickUnit_completes (s := { s with schedule := rest, arbCycle := a }) hu
    obtain ⟨-, n0, n1, heffect⟩ := tickUnit_effect ht c a (absurd rfl) fun _ => rfl
    exact ⟨n0, n1, t, (step_tickArb hs ha).trans ht, heffect⟩
  | cbo i =>
    obtain ⟨t, ht⟩ := tickUnit_completes (s := { s with schedule := rest, cboCycle := c }) hu
    obtain ⟨-, n0, n1, heffect⟩ := tickUnit_effect ht c a (fun _ => rfl) nofun
    exact ⟨n0, n1, t, (step_tickCbo hs hu hc).trans ht, heffect⟩

/-! ### Threshold, invert and edge (R192, R193) -/

/-- A zero threshold passes the increment through, whatever INV says. -/
theorem threshold_zero (inc : Nat) (inv : Bool) : threshold inc 0#5 inv = inc := if_pos rfl

theorem threshold_of_not_inv {thr : BitVec 5} (h : thr ≠ 0#5) (inc : Nat) :
    threshold inc thr false = if thr.toNat ≤ inc then 1 else 0 := if_neg h

theorem threshold_of_inv {thr : BitVec 5} (h : thr ≠ 0#5) (inc : Nat) :
    threshold inc thr true = if inc < thr.toNat then 1 else 0 := if_neg h

theorem edgeOrLevel_level (lvl : Nat) (prev : Bool) : edgeOrLevel lvl false prev = lvl := rfl

theorem edgeOrLevel_edge (lvl : Nat) (prev : Bool) :
    edgeOrLevel lvl true prev = if lvl ≠ 0 ∧ prev = false then 1 else 0 := rfl

/-- The edge detector behind a comparison passes on its rises. -/
theorem edgeOrLevel_edge_ite (p : Prop) [Decidable p] (prev : Bool) :
    edgeOrLevel (if p then 1 else 0) true prev = if p ∧ prev = false then 1 else 0 := by
  simp [edgeOrLevel_edge]

/-! ### The statements -/

/-- Settles O45: the tick completes with increments that its counters can receive, which are the listed ones, or free
ones within MAX_INC. -/
theorem tickOfAUnit : Obligations.TickOfAUnit := by
  intro s u c a rest hs hu hc ha
  obtain ⟨n0, n1, t, ht, h0, h1, heffect⟩ := step_tickOf hs hu hc ha
  exact ⟨n0, n1, t, ht, heffect, step_schedule hs ht, fun _ => State.mayReceive_of_listed h0,
    fun _ => State.mayReceive_of_listed h1, fun m hm =>
      ⟨fun hnone => State.mayReceive_of_unlisted h0 hnone hm, fun hnone => State.mayReceive_of_unlisted h1 hnone hm⟩⟩

/-- Settles O10: the tick is that of its unit in the state that holds the record, and counter 0's event leaves counter
1's selection as it is. -/
theorem tickRunsTheSelectedEvents : Obligations.TickRunsTheSelectedEvents := by
  refine ⟨fun s c i e0 e1 m rest hs hi hc h0 h1 hm => ?cbo, fun s a e0 e1 m rest hs ha h0 h1 hm => ?arb,
    fun s rest hs => ?fixed⟩
  case cbo =>
    rw [step_tickCbo hs ((s.part.hasUnit_cbo_eq_true_iff i).2 hi) hc]
    exact tickUnit_of_events h0 h1 hm
  case arb =>
    rw [step_tickArb hs ha]
    exact tickUnit_of_events h0 h1 hm
  case fixed => exact step_of_schedule hs

/-- Settles O20: a value that agrees with NO_CBO_BANKS within the mask has it in its low four bits. -/
theorem cboConfigRead : Obligations.CboConfigRead := by
  intro s
  have hmask : cboCfgMask.setWidth 4 = BitVec.allOnes 4 := by decide
  refine exec_rdInstr_reads (m := .cboConfig) rfl (setWidth_and_of_mask hmask _) fun v hv => ?_
  rw [extractLsb'_of_and_mask hmask (by decide) hv, Part.toNat_noCboBanks]

/-- Settles O21: the register is read-only (R171). -/
theorem cboConfigWriteFaults : Obligations.CboConfigWriteFaults := by
  intro s v
  rfl

/-- Settles O22: the row is that of an event-select register, which the part has or lacks. -/
theorem cboEventSelectRead : Obligations.CboEventSelectRead := by
  intro r hr s
  refine ⟨fun hpresent => ?_, fun habsent => (absentCboRefused r (List.mem_append_left _ hr) s 0#64 habsent).1⟩
  obtain ⟨i, j, rfl⟩ := mem_cboSelRows.1 hr
  exact exec_rdInstr_perfEvtSel_reads ((s.part.hasUnit_cbo_eq_true_iff i).2 hpresent) j

/-- Settles O23: the fields are those that the value holds, and the rest of the counter's slot is kept. -/
theorem cboEventSelectWrite : Obligations.CboEventSelectWrite := by
  intro r hr s v
  refine ⟨fun hpresent => ?_, fun habsent => (absentCboRefused r (List.mem_append_left _ hr) s v habsent).2⟩
  obtain ⟨i, j, rfl⟩ := mem_cboSelRows.1 hr
  exact exec_wrInstr_perfEvtSel_writes ((s.part.hasUnit_cbo_eq_true_iff i).2 hpresent) j v

/-- Settles O24: the ARB is on every part. -/
theorem arbEventSelectRead : Obligations.ArbEventSelectRead := by
  intro r hr s
  obtain ⟨j, rfl⟩ := mem_arbSelRows.1 hr
  exact exec_rdInstr_perfEvtSel_reads (u := .arb) rfl j

/-- Settles O25: the ARB is on every part, and no code is looked at. -/
theorem arbEventSelectWrite : Obligations.ArbEventSelectWrite := by
  intro r hr s v
  obtain ⟨j, rfl⟩ := mem_arbSelRows.1 hr
  exact exec_wrInstr_perfEvtSel_writes (u := .arb) rfl j v

/-- Settles O26: the row is that of a counter, which the part has or lacks. -/
theorem cboCounterRead : Obligations.CboCounterRead := by
  intro r hr s
  refine ⟨fun hpresent => ?_, fun habsent => (absentCboRefused r (List.mem_append_right _ hr) s 0#64 habsent).1⟩
  obtain ⟨i, j, rfl⟩ := mem_cboCtrRows.1 hr
  exact exec_rdInstr_perfCtr_reads ((s.part.hasUnit_cbo_eq_true_iff i).2 hpresent) j

/-- Settles O27: the count is replaced by the low 44 bits of the value, and no status bit or request comes with it. -/
theorem cboCounterWrite : Obligations.CboCounterWrite := by
  intro r hr s v
  refine ⟨fun hpresent => ?_, fun habsent => (absentCboRefused r (List.mem_append_right _ hr) s v habsent).2⟩
  obtain ⟨i, j, rfl⟩ := mem_cboCtrRows.1 hr
  exact exec_wrInstr_perfCtr_writes ((s.part.hasUnit_cbo_eq_true_iff i).2 hpresent) j v

/-- Settles O28: the ARB is on every part. -/
theorem arbCounterRead : Obligations.ArbCounterRead := by
  intro r hr s
  obtain ⟨j, rfl⟩ := mem_arbCtrRows.1 hr
  exact exec_rdInstr_perfCtr_reads (u := .arb) rfl j

/-- Settles O29: the ARB is on every part, and a write of its counter is no overflow. -/
theorem arbCounterWrite : Obligations.ArbCounterWrite := by
  intro r hr s v
  obtain ⟨j, rfl⟩ := mem_arbCtrRows.1 hr
  exact exec_wrInstr_perfCtr_writes (u := .arb) rfl j v

/-- Settles O46: row by row, first the threshold and then the edge detector. -/
theorem thresholdAndEdgeTable : Obligations.ThresholdAndEdgeTable := by
  intro mode inc prev
  refine ⟨fun hthr hedge => ?_, fun hthr hedge => ?_, fun hthr hinv hedge => ?_, fun hthr hinv hedge => ?_,
    fun hthr hinv hedge => ?_, fun hthr hinv hedge => ?_⟩ <;> rw [countDelta, hedge]
  · rw [hthr, threshold_zero, edgeOrLevel_level]
  · rw [hthr, threshold_zero, edgeOrLevel_edge]
  · rw [hinv, threshold_of_not_inv hthr, edgeOrLevel_level]
  · rw [hinv, threshold_of_inv hthr, edgeOrLevel_level]
  · rw [hinv, threshold_of_not_inv hthr, edgeOrLevel_edge_ite]
  · rw [hinv, threshold_of_inv hthr, edgeOrLevel_edge_ite]

end Sys2Proof.Machine

/-! The statements of 43_cbo_events.md: the snoop-response and lookup events of the CBos, and the relations between
their increments. -/

namespace Sys2Proof.Machine

open Sys2Proof

/-! ### The events of a present CBo (R213 to R227) -/

/-- A listed code of a present CBo selects its event, and the event is one cycle of its counter with the increment that
the rules list for the code. -/
theorem cboEvent_selected_and_completes {s : State} {i : CboIdx} {j : CtrIdx} {mode : CountMode} {umask evt : BitVec 8}
    {mk : CboIdx → CtrIdx → CountMode → Instr} {n : Nat} (hi : i.toNat < s.part.nCbo.toNat) (code : BitVec 16)
    (hcode : umask ++ evt = code) (hevent : cboEvents.lookup code = some mk)
    (hinc : (cboIncrements s.cboCycle).lookup (evt, umask) = some n) :
    decodeEvent (.cbo i) j { mode := mode, umask := umask, evt := evt } = some (mk i j mode) ∧
      ∃ t, exec (mk i j mode) s = .next t ∧ CycleEffect (.cbo i) j mode n s t := by
  have hdecode : decodeEvent (.cbo i) j { mode := mode, umask := umask, evt := evt } = some (mk i j mode) :=
    decodeEvent_cbo_of_code code hcode hevent
  refine ⟨hdecode, ?_⟩
  rcases decodeEvent_cbo_cases i j { mode := mode, umask := umask, evt := evt } s.cboCycle s.arbCycle with
    ⟨hnone, -⟩ | ⟨e, k, he, hk, hexec⟩
  · exact absurd (hdecode.symm.trans hnone) nofun
  · obtain rfl : mk i j mode = e := Option.some.inj (hdecode.symm.trans he)
    obtain rfl : n = k := Option.some.inj (hinc.symm.trans hk)
    rw [hexec s rfl]
    exact countEvent_completes j mode n ((s.part.hasUnit_cbo_eq_true_iff i).2 hi)

/-! ### Sums of increments (R210, R217) -/

/-- No element is counted twice where no element satisfies both. -/
theorem countP_add_countP_of_disjoint {α : Type} {p q : α → Bool} (h : ∀ a, p a = true → q a = false) (l : List α) :
    l.countP p + l.countP q = l.countP fun a => p a || q a := by
  induction l with
  | nil => rfl
  | cons a l ih =>
    simp only [List.countP_cons, ← ih]
    cases hp : p a with
    | true =>
      simp only [h a hp, Bool.or_false, Bool.false_eq_true, if_true, if_false]
      omega
    | false =>
      simp only [Bool.false_or, Bool.false_eq_true, if_false]
      omega

/-- The lookups in states of two separate groups. -/
theorem lookupCount_append {states states' : List Mesi} (hsep : states.Disjoint states') (req : ReqSel) (c : CboCycle) :
    lookupCount req (states ++ states') c = lookupCount req states c + lookupCount req states' c := by
  unfold lookupCount
  rw [countP_add_countP_of_disjoint]
  · simp only [List.contains_append, Bool.and_or_distrib_left]
  · intro l hl
    obtain ⟨-, hmem⟩ := Bool.and_eq_true_iff.1 hl
    have hnot : l.state ∉ states' := hsep (List.contains_iff_mem.1 hmem)
    simp [hnot]

/-- The lookups in any state are those in M, those in E or S, and those in I. -/
theorem lookupCount_mesi (req : ReqSel) (c : CboCycle) :
    lookupCount req [.m, .e, .s, .i] c =
      lookupCount req [.m] c + lookupCount req [.e, .s] c + lookupCount req [.i] c := by
  rw [show [Mesi.m, .e, .s, .i] = [.m] ++ [.e, .s] ++ [.i] from rfl, lookupCount_append (by simp),
    lookupCount_append (by simp)]

/-- No lookup is both a read and a write. -/
theorem lookupCount_read_add_write (states : List Mesi) (c : CboCycle) :
    lookupCount .read states c + lookupCount .write states c =
      c.lookups.countP fun l => l.req != .other && states.contains l.state := by
  unfold lookupCount
  rw [countP_add_countP_of_disjoint]
  · congr 1
    funext l
    rw [← Bool.and_or_distrib_right]
    cases l.req <;> rfl
  · intro l hl
    have hread : l.req = .read := beq_iff_eq.1 (Bool.and_eq_true_iff.1 hl).1
    simp [ReqSel.admits, hread]

theorem lookupCount_read_add_write_le_any (states : List Mesi) (c : CboCycle) :
    lookupCount .read states c + lookupCount .write states c ≤ lookupCount .any states c := by
  rw [lookupCount_read_add_write]
  refine List.countP_mono_left fun l _ hl => ?_
  exact (Bool.and_eq_true_iff.1 hl).2

/-- ANY counts reads and writes alone where no lookup is of another kind. -/
theorem lookupCount_read_add_write_eq_any {c : CboCycle} (h : ∀ l ∈ c.lookups, l.req ≠ .other) (states : List Mesi) :
    lookupCount .read states c + lookupCount .write states c = lookupCount .any states c := by
  rw [lookupCount_read_add_write]
  refine List.countP_congr fun l hl => ?_
  simp [ReqSel.admits, h l hl]

/-- No snoop has two responses. -/
theorem snoopCount_le_countP_cause (cause : SnoopCause) (c : CboCycle) :
    snoopCount cause .miss c + snoopCount cause .hit c + snoopCount cause .hitm c ≤
      c.snoops.countP fun x => x.cause == cause := by
  unfold snoopCount
  rw [countP_add_countP_of_disjoint, countP_add_countP_of_disjoint]
  · refine List.countP_mono_left fun x _ hx => ?_
    simp only [← Bool.and_or_distrib_left] at hx
    exact (Bool.and_eq_true_iff.1 hx).1
  · intro x hx
    have hresp : x.resp = .miss ∨ x.resp = .hit := by
      simp only [← Bool.and_or_distrib_left] at hx
      simpa using (Bool.and_eq_true_iff.1 hx).2
    rcases hresp with hmiss | hhit
    · simp [hmiss]
    · simp [hhit]
  · intro x hx
    have hmiss : x.resp = .miss := beq_iff_eq.1 (Bool.and_eq_true_iff.1 hx).2
    simp [hmiss]

/-! ### The statements -/

/-- Settles O40: each pair of fields is the code of its row, whose increment the rules list. -/
theorem snoopResponseEvents : Obligations.SnoopResponseEvents := by
  intro s i j mode hi
  exact ⟨cboEvent_selected_and_completes hi 0x4122#16 (by decide) rfl rfl,
    cboEvent_selected_and_completes hi 0x8122#16 (by decide) rfl rfl,
    cboEvent_selected_and_completes hi 0x4422#16 (by decide) rfl rfl,
    cboEvent_selected_and_completes hi 0x4822#16 (by decide) rfl rfl⟩

/-- Settles O41: as for the snoop responses, with the rows of one MESI state. -/
theorem cacheLookupEventsOfOneState : Obligations.CacheLookupEventsOfOneState := by
  intro s i j mode hi
  exact ⟨cboEvent_selected_and_completes hi 0x2134#16 (by decide) rfl rfl,
    cboEvent_selected_and_completes hi 0x8134#16 (by decide) rfl rfl,
    cboEvent_selected_and_completes hi 0x1834#16 (by decide) rfl rfl,
    cboEvent_selected_and_completes hi 0x8834#16 (by decide) rfl rfl⟩

/-- Settles O42: as for the snoop responses, with the rows of any state and of E or S. -/
theorem cacheLookupEventsOfManyStates : Obligations.CacheLookupEventsOfManyStates := by
  intro s i j mode hi
  exact ⟨cboEvent_selected_and_completes hi 0x1F34#16 (by decide) rfl rfl,
    cboEvent_selected_and_completes hi 0x2F34#16 (by decide) rfl rfl,
    cboEvent_selected_and_completes hi 0x8F34#16 (by decide) rfl rfl,
    cboEvent_selected_and_completes hi 0x8634#16 (by decide) rfl rfl,
    cboEvent_selected_and_completes hi 0x1634#16 (by decide) rfl rfl,
    cboEvent_selected_and_completes hi 0x2634#16 (by decide) rfl rfl⟩

/-- Settles O47: the sums over the states, and the sums over the kinds, which bound each kind's count by that of ANY. -/
theorem cboEventRelations : Obligations.CboEventRelations := by
  intro c
  refine ⟨lookupCount_mesi .any c, lookupCount_read_add_write_le_any _ c,
    fun h => lookupCount_read_add_write_eq_any h _, ?writeM, ?readI, lookupCount_read_add_write_le_any _ c,
    ?readMesi, lookupCount_mesi .write c, snoopCount_le_countP_cause .xcore c⟩
  case writeM => exact (Nat.le_add_left _ _).trans (lookupCount_read_add_write_le_any [.m] c)
  case readI => exact (Nat.le_add_right _ _).trans (lookupCount_read_add_write_le_any [.i] c)
  case readMesi =>
    rw [lookupCount_mesi]
    omega

end Sys2Proof.Machine

/-! The statements of 44_arb_events.md: the occupancy and the allocation events of the ARB. -/

namespace Sys2Proof.Machine

open Sys2Proof

/-! ### The occupancy rows (R241, R245) -/

/-- The meaning of the row does not look at THR, though only another THR than 1 selects it. -/
theorem exec_arbTrkOccupancyAll (mode : CountMode) (s : State) :
    exec (.arbTrkOccupancyAll mode) s = countEvent .arb .k0 mode s.arbCycle.trkValid s := rfl

/-- The meaning of the row does not look at THR, though only a THR of 1 selects it. -/
theorem exec_arbTrkOccupancyCyclesWithAnyRequest (mode : CountMode) (s : State) :
    exec (.arbTrkOccupancyCyclesWithAnyRequest mode) s = countEvent .arb .k0 mode s.arbCycle.trkValid s := rfl

/-- The ARB is on every part, so a cycle of its counters always completes. -/
theorem countEvent_arb_completes (j : CtrIdx) (mode : CountMode) (inc : Nat) (s : State) :
    ∃ t, countEvent .arb j mode inc s = .next t ∧ CycleEffect .arb j mode inc s t :=
  countEvent_completes j mode inc rfl

/-! ### The allocation rows (R242 to R244) -/

/-- An event that stands in an event select of a present unit completes as one cycle of the counter, with the increment
that the rules list for the code. -/
theorem selectedEvent_completes {u : UnitId} {j : CtrIdx} {x : EvtSel} {e : Instr} {n : Nat} {s : State}
    (hu : s.part.hasUnit u = true) (hdecode : decodeEvent u j x = some e)
    (hinc : listedIncrement u j x s.cboCycle s.arbCycle = some n) :
    ∃ t, exec e s = .next t ∧ CycleEffect u j x.mode n s t := by
  rcases decodeEvent_cases u j x s.cboCycle s.arbCycle with ⟨hnone, -⟩ | ⟨e', n', he, hn, hexec⟩
  · exact absurd (hdecode.symm.trans hnone) nofun
  · obtain rfl : e = e' := Option.some.inj (hdecode.symm.trans he)
    obtain rfl : n = n' := Option.some.inj (hinc.symm.trans hn)
    rw [hexec s (fun _ => rfl) (fun _ => rfl)]
    exact countEvent_completes j x.mode n hu

/-- Off the occupancy code, the increment of an ARB code is that of its row, on either counter. -/
theorem listedIncrement_arb_of_code_ne {x : EvtSel} (h : x.umask ++ x.evt ≠ 0x0180#16) (j : CtrIdx) (c : CboCycle)
    (a : ArbCycle) : listedIncrement .arb j x c a = (arbIncrements a).lookup (x.evt, x.umask) :=
  if_neg fun ⟨hevt, humask, _⟩ => h ((code_eq_iff x.umask x.evt 0x01#8 0x80#8).2 ⟨hevt, humask⟩)

/-- A listed code that either counter of the ARB may use selects its event, and the event is one cycle of the counter
with the increment that the rules list for the code. -/
theorem arbEvent_selected_and_completes {s : State} {j : CtrIdx} {mode : CountMode} {umask evt : BitVec 8}
    {mk : CtrIdx → CountMode → Instr} {n : Nat} (code : BitVec 16) (hcode : umask ++ evt = code)
    (hne : code ≠ 0x0180#16) (hevent : arbEvents.lookup code = some mk)
    (hinc : (arbIncrements s.arbCycle).lookup (evt, umask) = some n) :
    decodeEvent .arb j { mode := mode, umask := umask, evt := evt } = some (mk j mode) ∧
      ∃ t, exec (mk j mode) s = .next t ∧ CycleEffect .arb j mode n s t := by
  have hdecode : decodeEvent .arb j { mode := mode, umask := umask, evt := evt } = some (mk j mode) :=
    decodeEvent_arb_of_code code hcode hne hevent
  have hlisted := (listedIncrement_arb_of_code_ne (x := { mode := mode, umask := umask, evt := evt })
    (hcode ▸ hne) j s.cboCycle s.arbCycle).trans hinc
  exact ⟨hdecode, selectedEvent_completes rfl hdecode hlisted⟩

/-! ### The statements -/

/-- Settles O43: both rows are the same cycle of counter 0, and the code's row is chosen by THR there and is none on
counter 1. -/
theorem arbOccupancyEvents : Obligations.ArbOccupancyEvents := by
  intro s mode
  refine ⟨?all, ?cyclesWithAny, fun hthr => ?thrOne, fun hthr => ?thrOther, decodeEvent_arb_occupancy .k1 mode⟩
  case all =>
    rw [exec_arbTrkOccupancyAll]
    exact countEvent_arb_completes .k0 mode s.arbCycle.trkValid s
  case cyclesWithAny =>
    rw [exec_arbTrkOccupancyCyclesWithAnyRequest]
    exact countEvent_arb_completes .k0 mode s.arbCycle.trkValid s
  case thrOne => exact (decodeEvent_arb_occupancy .k0 mode).trans (congrArg some (if_pos hthr))
  case thrOther => exact (decodeEvent_arb_occupancy .k0 mode).trans (congrArg some (if_neg hthr))

/-- Settles O44: each pair of fields is the code of its row, which is not the occupancy code and whose increment the
rules list. -/
theorem arbRequestEvents : Obligations.ArbRequestEvents := by
  intro s j mode
  exact ⟨arbEvent_selected_and_completes 0x0181#16 (by decide) (by decide) rfl rfl,
    arbEvent_selected_and_completes 0x2081#16 (by decide) (by decide) rfl rfl,
    arbEvent_selected_and_completes 0x0184#16 (by decide) (by decide) rfl rfl⟩

end Sys2Proof.Machine

/-! The statements of 45_imc_counters.md: the reads of the IMC counters and of the halves of the base address, what
changes an IMC counter, and the count between two reads of one. -/

namespace Sys2Proof

/-! ### The halves of the base address (R262, R268) -/

/-- Two halves placed as R262 places them are the halves one after the other. -/
theorem shiftLeft_or_setWidth_eq_append (hi lo : Word32) :
    (hi.setWidth 64 <<< 32) ||| lo.setWidth 64 = hi ++ lo := by
  rw [BitVec.append_def, BitVec.shiftLeftZeroExtend_eq, BitVec.setWidth'_eq]

/-- A value is its two halves, one after the other. -/
theorem halves_append (v : Word64) : v.extractLsb' 32 32 ++ v.extractLsb' 0 32 = v :=
  (BitVec.extractLsb'_append_extractLsb'_eq_extractLsb' (by decide)).trans BitVec.extractLsb'_eq_self

/-- The base address has no bit outside the mask (R9). -/
theorem ofNat_imcBar_and_not_mask (mask cfg48 : Word64) : BitVec.ofNat 64 (imcBar mask cfg48) &&& ~~~mask = 0#64 := by
  rw [imcBar, BitVec.ofNat_toNat, BitVec.setWidth_eq, BitVec.and_assoc, BitVec.and_not_self]
  exact BitVec.and_zero

/-- With the printed mask the base address is a multiple of 0x8000 (R262). -/
theorem imcBar_mod_of_printed_mask (cfg48 : Word64) : imcBar 0x0007FFFFFF8000#64 cfg48 % 0x8000 = 0 := by
  have hlow : (0x0007FFFFFF8000 &&& (2 ^ 15 - 1) : Nat) = 0 := by decide
  rw [imcBar, BitVec.toNat_and, show 0x8000 = 2 ^ 15 from rfl, ← Nat.and_two_pow_sub_one_eq_mod, Nat.and_assoc]
  exact (congrArg (cfg48.toNat &&& ·) hlow).trans (Nat.and_zero _)

/-- With the printed mask the base address is below 2^43 (R262). -/
theorem imcBar_lt_of_printed_mask (cfg48 : Word64) : imcBar 0x0007FFFFFF8000#64 cfg48 < 2 ^ 43 := by
  rw [imcBar, BitVec.toNat_and]
  exact Nat.and_le_right.trans_lt (by decide)

/-! ### The record of a read of an IMC counter (R263, R266) -/

theorem ImcCtr.offset_lt (c : ImcCtr) : c.offset < 0x5058 := by cases c <;> decide

theorem ImcCtr.eq_of_offset_eq {c d : ImcCtr} (h : c.offset = d.offset) : c = d := by
  have hc := ImcCtr.atAddr_offset 0 c
  rw [h, ImcCtr.atAddr_offset] at hc
  exact (Option.some.inj hc).symm

/-- The record of a read is that of the address modulo 2^64 (log 8). -/
theorem encode_memRead_mod (p n : Nat) : (Access.memRead p n).encode = (Access.memRead (p % 2 ^ 64) n).encode := by
  have haddr : BitVec.ofNat 64 (p % 2 ^ 64) = BitVec.ofNat 64 p := BitVec.eq_of_toNat_eq (by simp)
  simp only [Access.encode, haddr]

end Sys2Proof

namespace Sys2Proof.Machine

open Sys2Proof

/-- The record of a counter's read decodes to that read or to nothing, wherever the window lies: an address that does
not fit wraps to a place that is no word of the window. -/
theorem eq_rdInstr_of_decode_encode {bar : Nat} {c : ImcCtr} {i : Instr}
    (h : decode bar .record (encode bar c.rdInstr).2 = .ok i) : i = c.rdInstr := by
  rw [(encode_imcRdInstr bar c).1, encode_memRead_mod] at h
  have hfits : Fits (.memRead ((bar + c.offset) % 2 ^ 64) 4) := ⟨Nat.mod_lt _ (by decide), by decide⟩
  simp only [decode, decodeRecord_encode hfits] at h
  obtain ⟨d, hp, -, rfl⟩ := toInstr_memRead_eq_ok h
  have hcd : c.offset = d.offset := by
    have hc := c.offset_lt
    have hd := d.offset_lt
    omega
  rw [ImcCtr.eq_of_offset_eq hcd]

/-- A read of a counter that completes gives its core the count. -/
theorem step_of_imcRead {s t : State} {n : CoreIdx} {c : ImcCtr} {rest : List Action}
    (hs : s.schedule = .access n (encode s.part.imcBar c.rdInstr).2 :: rest) (h : step s = .next t) :
    (t.results.get n).toNat = (s.pmu.imc.get c).toNat := by
  rw [step_of_schedule hs] at h
  obtain ⟨hc, i, hi, -⟩ := runAccess_next h
  obtain rfl := eq_rdInstr_of_decode_encode hi
  have hrun := (runAccess_of_decode_ok hc hi).symm.trans h
  obtain ⟨w, hw, hread⟩ := readImc_returns c { s with schedule := rest, issuer := n }
  rw [exec_imcRdInstr, hread] at hrun
  cases hrun
  exact (congrArg BitVec.toNat (PerCore.get_put_same ..)).trans hw

/-! ### What changes an IMC counter (R264, R267, R270) -/

@[simp] theorem countFixed_imc (s : State) : (countFixed s).pmu.imc = s.pmu.imc := by
  rcases countFixed_cases s with ⟨-, e⟩ | ⟨-, -, e⟩ | ⟨-, -, e⟩ <;> simp [e]

@[simp] theorem countImc_get_same (c : ImcCtr) (s : State) :
    (countImc c s).pmu.imc.get c = s.pmu.imc.get c + 1#32 := ImcCtrs.get_put_same ..

theorem countImc_get_ne {c d : ImcCtr} (h : d ≠ c) (s : State) :
    (countImc c s).pmu.imc.get d = s.pmu.imc.get d := ImcCtrs.get_put_ne _ _ h

/-- A step that is no event of the counter leaves it as it is: the other agents do not reach the IMC counters, and an
event of another counter replaces that one only. -/
theorem step_imc_of_ne {s t : State} {c : ImcCtr} (h : step s = .next t) (hne : s.nextAction ≠ .imc c) :
    t.pmu.imc.get c = s.pmu.imc.get c := by
  cases step_cases h with
  | read n v he hc hp => rw [hp]
  | write m v hi hm hpr hp => rw [hp, Pmu.writeMsr_imc]
  | fixed ha hp => rw [hp, countFixed_imc]
  | unit u cbo arb n0 n1 ha hu h0 h1 he =>
    obtain ⟨-, -, -, -, -, -, -, -, himc, -⟩ := he
    rw [himc]
  | imc d ha hp =>
    have hcd : c ≠ d := by
      rintro rfl
      exact hne ha
    rw [hp, countImc_get_ne hcd]
  | pmi ha hpend hp => rw [hp, deliverPmi_pmu_imc]
  | sleep n b ha hc hp => rw [hp]

/-- An event of the counter advances it. -/
theorem step_imc_of_event {s t : State} {c : ImcCtr} (h : step s = .next t) (ha : s.nextAction = .imc c) :
    t.pmu.imc.get c = s.pmu.imc.get c + 1#32 := by
  rw [step_eq, ha] at h
  cases h
  rw [countImc_get_same, State.taken_pmu]

/-- One step advances the counter by the number of its events in it, 0 or 1. -/
theorem step_imc_count {s t : State} {a : Action} {rest : List Action} (c : ImcCtr) (hs : s.schedule = a :: rest)
    (h : step s = .next t) :
    (t.pmu.imc.get c).toNat = ((s.pmu.imc.get c).toNat + [a].count (.imc c)) % 2 ^ 32 := by
  have hnext : s.nextAction = a := by rw [State.nextAction, hs]
  by_cases ha : a = .imc c
  · rw [step_imc_of_event h (hnext.trans ha), ha, List.count_singleton_self]
    exact BitVec.toNat_add ..
  · rw [step_imc_of_ne h (hnext ▸ ha), List.count_singleton, beq_false_of_ne ha]
    exact (Nat.mod_eq_of_lt (BitVec.isLt _)).symm

/-- A run advances the counter by the number of its events in the run, modulo 2^32, and leaves the part and the rest
of the schedule. -/
theorem runSteps_imc_count {s t : State} {as rest : List Action} (c : ImcCtr) (hs : s.schedule = as ++ rest)
    (h : runSteps as.length s = .next t) :
    t.schedule = rest ∧ t.part = s.part ∧
      (t.pmu.imc.get c).toNat = ((s.pmu.imc.get c).toNat + as.count (.imc c)) % 2 ^ 32 := by
  induction as generalizing s with
  | nil =>
    cases h
    exact ⟨hs, rfl, (Nat.mod_eq_of_lt (BitVec.isLt _)).symm⟩
  | cons a as ih =>
    obtain ⟨m, hstep, hrun⟩ := runSteps_succ.1 h
    obtain ⟨hsched, hpart, hcount⟩ := ih (step_schedule hs hstep) hrun
    refine ⟨hsched, hpart.trans (step_part hstep), ?_⟩
    rw [hcount, step_imc_count c hs hstep, Nat.mod_add_mod, Nat.add_assoc, ← List.count_append, List.singleton_append]

/-! ### The statements -/

/-- Settles O36: by the agent that moved. -/
theorem imcChangesOnlyByItsEvents : Obligations.ImcChangesOnlyByItsEvents :=
  fun _ _ _ h hne => step_imc_of_ne h hne

/-- Settles O37: the first read leaves the counter as it is, and the run between the reads advances it by its events;
the second record still stands for the counter, since no step moves the window. -/
theorem imcSampling : Obligations.ImcSampling := by
  intro r hr s s1 s2 t n1 n2 as rest hs hread1 hrun hread2
  obtain ⟨c, rfl⟩ := mem_imcRows.1 hr
  obtain ⟨hs2, hpart2, hcount⟩ := runSteps_imc_count c (step_schedule hs hread1) hrun
  rw [← step_part hread1, ← hpart2] at hs2
  have hkept : s1.pmu.imc.get c = s.pmu.imc.get c := step_imc_of_ne hread1 (by rw [State.nextAction, hs]; nofun)
  have hfirst : (s1.results.get n1).toNat = (s.pmu.imc.get c).toNat := step_of_imcRead hs hread1
  have hsecond : (t.results.get n2).toNat = (s2.pmu.imc.get c).toNat := step_of_imcRead hs2 hread2
  have hlt : (s.pmu.imc.get c).toNat < 2 ^ 32 := BitVec.isLt _
  rw [hkept] at hcount
  rw [hfirst, hsecond, hcount]
  dsimp only
  omega

/-- Settles O34: the halves are those that the reads return, and together they are the configuration value. -/
theorem configurationHalvesGiveTheBase : Obligations.ConfigurationHalvesGiveTheBase := by
  intro s
  have hjoined := halves_append s.part.cfg48
  refine ⟨s.part.cfg48.extractLsb' 0 32, s.part.cfg48.extractLsb' 32 32, ?sum, read32_returns _ s, read32_returns _ s,
    ?_⟩
  case sum =>
    have htoNat := congrArg BitVec.toNat hjoined
    rwa [BitVec.toNat_append, ← Nat.shiftLeft_add_eq_or_of_lt (BitVec.isLt _), Nat.shiftLeft_eq] at htoNat
  rw [shiftLeft_or_setWidth_eq_append, hjoined]
  refine ⟨rfl, ofNat_imcBar_and_not_mask _ _, fun hmask => ?_⟩
  rw [Part.imcBar, hmask]
  exact ⟨rfl, imcBar_mod_of_printed_mask _, imcBar_lt_of_printed_mask _⟩

/-- Settles O33: each of the five rows is the read of its counter. -/
theorem imcCounterRead : Obligations.ImcCounterRead := by
  intro r hr s
  obtain ⟨c, rfl⟩ := mem_imcRows.1 hr
  rw [exec_imcRdInstr]
  exact readImc_returns c s

/-- Settles O35: the new counters are the old ones with the one counter advanced. -/
theorem imcEventCounts : Obligations.ImcEventCounts := by
  intro s c rest hs
  refine ⟨(countImc c s).pmu.imc, ?_, fun d hd => countImc_get_ne hd s, step_of_schedule hs⟩
  rw [countImc_get_same]
  exact BitVec.toNat_add ..

end Sys2Proof.Machine

/-! The statements of 60_exceptions.md: who requests and who withdraws a PMI, what a delivery does, that a request
survives until its delivery, and the environment's sleep and wake steps. -/

namespace Sys2Proof.Machine

open Sys2Proof

/-! ### The targets and the wake of a delivery (R9, R27, R301) -/

theorem Part.hasCore_eq_true_iff (p : Part) (n : CoreIdx) : p.hasCore n = true ↔ n.toNat < p.nCores.toNat := by
  simp [Part.hasCore]

@[simp] theorem State.mem_pmiTargets (s : State) (n : CoreIdx) :
    s.pmiTargets.mem n =
      (s.pmu.gctrl.pmiSel.mem n && s.part.hasCore n && (s.pmu.gctrl.wakeOnPmi || !s.pmu.asleep.mem n)) := by
  unfold State.pmiTargets
  split
  next hwake => rw [State.mem_selectedCores, hwake, Bool.true_or, Bool.and_true]
  next hwake => rw [CoreSet.mem_diff, State.mem_selectedCores, Bool.eq_false_of_not_eq_true hwake, Bool.false_or]

@[simp] theorem State.mem_asleepAfterPmi (s : State) (n : CoreIdx) :
    s.asleepAfterPmi.mem n =
      (s.pmu.asleep.mem n && !(s.pmu.gctrl.wakeOnPmi && s.pmu.gctrl.pmiSel.mem n && s.part.hasCore n)) := by
  unfold State.asleepAfterPmi
  split
  next hwake => rw [CoreSet.mem_diff, State.mem_selectedCores, hwake, Bool.true_and]
  next hwake => simp [Bool.eq_false_of_not_eq_true hwake]

/-- The members of a set of cores are listed in rising order. -/
theorem CoreSet.toList_pairwise (x : CoreSet) : x.toList.Pairwise fun n k => n.toNat < k.toNat :=
  List.Pairwise.filter _ (by decide)

/-! ### The delivery step (R300, R302) -/

theorem step_pmi {s : State} {rest : List Action} (hs : s.schedule = .pmi :: rest)
    (hpend : s.pmu.pmiPending = true) : step s = .next (deliverPmi { s with schedule := rest }) := by
  rw [step_of_schedule hs]
  exact if_pos hpend

/-- EN is kept but for the freeze. -/
theorem deliverPmi_en (s : State) :
    (deliverPmi s).pmu.gctrl.en = if s.pmu.gctrl.frzOnPmi then false else s.pmu.gctrl.en := by
  rw [deliverPmi_pmu_gctrl]
  cases s.pmu.gctrl.frzOnPmi with
  | false => exact Bool.and_true _
  | true => exact Bool.and_false _

/-! ### Who requests and who withdraws a PMI (R297, R298, R300, R309) -/

/-- A tick of the fixed counter leaves the request as it is, or overflows and requests a PMI. -/
theorem countFixed_pmiPending (s : State) :
    (countFixed s).pmu.pmiPending = s.pmu.pmiPending ∨
      s.pmu.gctrl.en = true ∧ s.pmu.fctrl.cntEn = true ∧ s.pmu.fctr.toNat = 2 ^ 48 - 1 ∧ s.pmu.fctrl.ovfEn = true ∧
        (countFixed s).pmu.pmiPending = true := by
  rcases countFixed_cases s with ⟨-, e⟩ | ⟨-, -, e⟩ | ⟨hen, hcarry, e⟩
  · exact .inl (by rw [e])
  · exact .inl (by rw [e, State.withPmu_pmu])
  · rw [e, State.withPmu_pmu, overflow_pmiPending]
    cases hovf : s.pmu.fctrl.ovfEn with
    | false => exact .inl (Bool.or_false _)
    | true =>
      obtain ⟨hglobal, hlocal⟩ := (Bool.and_eq_true _ _).mp hen
      have := s.pmu.fctr.isLt
      exact .inr ⟨hglobal, hlocal, by omega, rfl, Bool.or_true _⟩

/-- The next step is a tick in which this source overflows with OVF_EN = 1, which requests a PMI (R297). -/
def State.requestComes (s : State) : OvfSource → Prop
  | .fixed => s.fixedOverflowComes ∧ s.pmu.fctrl.ovfEn = true
  | .counter u => s.overflowComes u fun ovfEn => ovfEn

/-- What a step can do to the request: nothing, raise it by an overflow with OVF_EN = 1, or withdraw it by the
delivery. -/
theorem step_pmiPending {s t : State} (h : step s = .next t) :
    t.pmu.pmiPending = s.pmu.pmiPending ∨
    (t.pmu.pmiPending = true ∧ ∃ src, s.requestComes src) ∨
    (t.pmu.pmiPending = false ∧ s.nextAction = .pmi) := by
  cases step_cases h with
  | read n v he hc hp => exact .inl (by rw [hp])
  | write m v hi hm hpr hp => exact .inl (by rw [hp, Pmu.writeMsr_pmiPending])
  | fixed ha hp =>
    rw [hp]
    rcases countFixed_pmiPending s with hsame | ⟨hen, hcnt, hmax, hovf, hset⟩
    · exact .inl hsame
    · exact .inr (.inl ⟨hset, .fixed, ⟨ha, hen, hcnt, hmax⟩, hovf⟩)
  | unit u c a n0 n1 ha hu h0 h1 he =>
    obtain ⟨-, -, -, hpending, -⟩ := he
    rw [Bool.or_assoc] at hpending
    cases hreq : s.requestsIn u .k0 (s.pmu.slot u .k0).sel.mode n0
        || s.requestsIn u .k1 (s.pmu.slot u .k1).sel.mode n1 with
    | false => exact .inl (by rw [hpending, hreq, Bool.or_false])
    | true =>
      have hcomes : s.overflowComes u fun ovfEn => ovfEn := State.overflowComes_of_tick ha h0 h1 hreq
      exact .inr (.inl ⟨by rw [hpending, hreq, Bool.or_true], .counter u, hcomes⟩)
  | imc c ha hp => exact .inl (by rw [hp]; rfl)
  | pmi ha hpend hp => exact .inr (.inr ⟨by rw [hp, deliverPmi_pmu_pmiPending], ha⟩)
  | sleep n b ha hc hp => exact .inl (by rw [hp])

/-- A step other than the delivery keeps a request. -/
theorem step_keeps_pending {s t : State} (h : step s = .next t) (hne : s.nextAction ≠ .pmi)
    (hpend : s.pmu.pmiPending = true) : t.pmu.pmiPending = true := by
  rcases step_pmiPending h with hsame | ⟨hset, -⟩ | ⟨-, ha⟩
  · exact hsame.trans hpend
  · exact hset
  · exact absurd ha hne

/-- A run of steps other than the delivery keeps a request, and leaves the rest of the schedule to come. -/
theorem runSteps_keeps_pending {s t : State} {as rest : List Action} (hs : s.schedule = as ++ rest)
    (hno : Action.pmi ∉ as) (hpend : s.pmu.pmiPending = true) (h : runSteps as.length s = .next t) :
    t.schedule = rest ∧ t.pmu.pmiPending = true := by
  induction as generalizing s with
  | nil =>
    cases h
    exact ⟨hs, hpend⟩
  | cons a as ih =>
    obtain ⟨hne, hno⟩ := not_or.1 (List.mem_cons.not.1 hno)
    obtain ⟨m, hstep, hrun⟩ := runSteps_succ.1 h
    have hnext : s.nextAction ≠ .pmi := by
      rw [State.nextAction, hs]
      exact Ne.symm hne
    exact ih (step_schedule hs hstep) hno (step_keeps_pending hstep hnext hpend) hrun

/-! ### The sleep and wake steps (R312) -/

/-- A sleep or a wake of a core of the part completes. -/
theorem step_putAsleep {s : State} {n : CoreIdx} {rest : List Action} (b : Bool) (hc : s.part.hasCore n = true)
    (hs : s.schedule = (if b then .sleep n else .wake n) :: rest) :
    step s = .next { s with schedule := rest, pmu := { s.pmu with asleep := s.pmu.asleep.put n b } } := by
  rw [step_of_schedule hs]
  cases b with
  | false => exact if_pos hc
  | true => exact if_pos hc

/-! ### The statements -/

/-- Settles O60: the run keeps the request, and the delivery then runs; its targets are those of `Targets()`. -/
theorem pendingPmiIsDelivered : Obligations.PendingPmiIsDelivered := by
  intro s m as rest hs hno hpend hrun
  obtain ⟨hsched, hkept⟩ := runSteps_keeps_pending hs hno hpend hrun
  refine ⟨hkept, _, step_pmi hsched hkept, rfl, m.pmiTargets.toList, rfl, CoreSet.toList_pairwise _, fun n => ?_⟩
  rw [CoreSet.mem_toList, State.mem_pmiTargets]
  simp [Part.hasCore_eq_true_iff, and_assoc]

/-- Settles O48: the sleepers and the targets are those of R301, and with nothing pending the agent has no step. -/
theorem pmiDelivery : Obligations.PmiDelivery := by
  intro s rest hs
  refine ⟨fun hpend => ?pending, fun hnone t => ?nothing⟩
  case pending =>
    refine ⟨s.asleepAfterPmi, s.pmiTargets.toList, s.mem_asleepAfterPmi, ?_, ?_⟩
    · exact .of_eq (List.filter_congr fun n _ => s.mem_pmiTargets n)
    · rw [step_pmi hs hpend, ← deliverPmi_en s]
      rfl
  case nothing =>
    obtain ⟨-, -, hpmi, -⟩ := agentsWithoutAStepAreNotRun s rest .p0
    rw [hpmi hs hnone]
    nofun

/-- Settles O57: from what a step can do to the request. -/
theorem pmiRequestsOnlyByOverflow : Obligations.PmiRequestsOnlyByOverflow := by
  intro s t h
  refine ⟨fun hold hnew => ?raised, fun hold hnew => ?withdrawn⟩
  case raised =>
    rcases step_pmiPending h with hsame | ⟨-, src, hcomes⟩ | ⟨hclear, -⟩
    · simp [hsame, hold] at hnew
    · cases src with
      | fixed => exact .inr hcomes
      | counter u => exact .inl ⟨u, hcomes⟩
    · simp [hclear] at hnew
  case withdrawn =>
    by_contra hne
    exact absurd (hnew.symm.trans (step_keeps_pending h hne hold)) Bool.false_ne_true

/-- Settles O49: the set of sleepers with the core put in or taken out; the other agents have no step. -/
theorem sleepAndWake : Obligations.SleepAndWake := by
  intro s n rest
  obtain ⟨haccess, -, -, hagent⟩ := agentsWithoutAStepAreNotRun s rest n
  refine ⟨fun hn => ?present, fun hn hs t => ?absent, fun hasleep bytes hs t => ?access⟩
  case present =>
    have hc := (s.part.hasCore_eq_true_iff n).2 hn
    exact ⟨fun hs => ⟨_, CoreSet.mem_put_same .., fun m => CoreSet.mem_put_ne _ _, step_putAsleep true hc hs⟩,
      fun hs => ⟨_, CoreSet.mem_put_same .., fun m => CoreSet.mem_put_ne _ _, step_putAsleep false hc hs⟩⟩
  case absent =>
    rw [hagent hs hn]
    nofun
  case access =>
    rw [haccess bytes hs (.inl hasleep)]
    nofun

end Sys2Proof.Machine
